-- ==== Sys2Proof/Word.lean ====
section
/-! DEFINITION. Words of VLPCORE and the events of its wire (spec/00_scope.md rules R11, R12).

A value the spec treats as bits is a bit vector: a byte (u8), a raw code (u16), a scaled reading (i16, two's
complement). A pin level is a `Bool` (0 is `false`, 1 is `true`). Stage values are exact rationals, `Rat`. -/

namespace Sys2Proof

/-- A byte, u8 (rule R11). -/
abbrev Byte := BitVec 8

/-- A 16-bit word: u16 for the raw code, i16 for a scaled reading (rules R32, R35). -/
abbrev Word16 := BitVec 16

/-- A command word, format CMDW: 19 bits, one length only (spec/30_encoding.md rule R71). -/
abbrev CmdWord := BitVec 19

/-- The wire trace events of rule R12: SCK set to 0, SCK set to 1, SDO set to `b`, one wait of `T_HALF_MS`
milliseconds, SDI sampled with value `b`. -/
inductive WireEvent where
  | lo
  | hi
  | dr (b : Bool)
  | wt
  | sm (b : Bool)
  deriving DecidableEq, Repr

/-- The environment's answers to `sample SDI` (rules R12, R41): from the number of bits sampled before and the wire
trace up to this sample, the next bit. No field of the state has this type: it is an argument of `stepWith`,
and `step` is that step at one environment nothing is known of (spec/10_state.md rule R21). -/
abbrev Peer := Nat → List WireEvent → Bool

/-- The byte with these bits, bit 7 first (rules R12, R104: the sum over `i` of `s_i × 2^i`). -/
def byteOfBits (b7 b6 b5 b4 b3 b2 b1 b0 : Bool) : Byte :=
  BitVec.ofNat 8 (128 * b7.toNat + 64 * b6.toNat + 32 * b5.toNat + 16 * b4.toNat
    + 8 * b3.toNat + 4 * b2.toNat + 2 * b1.toNat + b0.toNat)

end Sys2Proof
end

