-- ==== Sys2Proof/Config.lean ====
section
/-! DEFINITION. The configuration record `Cfg` of one build (spec/00_scope.md rules R7 to R10), its documented
defaults, and the values nothing in the spec fixes.

"A model of VLPCORE takes one configuration record" (R7): decoding, the operations, `execWith` and `stepWith` take a
`Cfg`, so that a statement can speak of every build; `exec` and `step` are those at the build of `Machine/Build.lean`.
No operation writes any field of `Cfg`, and `Cfg` is not state (spec/10_state.md rule R21). -/

namespace Sys2Proof

/-- Which pipeline stage the voltage field shows (rule R10, `VOLT_TAP`): `s1` is VOLT, `s2` is MEAS. -/
inductive VoltTap where
  | s1
  | s2
  deriving DecidableEq, Repr

/-- The configuration record of one build; each field names the spec's parameter. -/
structure Cfg where
  /-- `V_REF`, volts (R8). -/
  vRef : Rat
  /-- `ADC_GAIN`, the converter's configured gain (R8). -/
  adcGain : Rat
  /-- `OPAMP_GAIN`, the front-end amplifier (R8). -/
  opampGain : Rat
  /-- `MW_RATIO`, the responsivity constant (R8). -/
  mwRatio : Rat
  /-- `B_RESET` (R9). -/
  bReset : Byte
  /-- `N_RESET`, count of reset bytes (R9). -/
  nReset : Nat
  /-- `B_SEL_CLK` (R9). -/
  bSelClk : Byte
  /-- `B_CLK_CFG` (R9). -/
  bClkCfg : Byte
  /-- `B_SEL_SETUP` (R9). -/
  bSelSetup : Byte
  /-- `B_SETUP_CFG` (R9). -/
  bSetupCfg : Byte
  /-- `B_RD_DATA` (R9). -/
  bRdData : Byte
  /-- `B_FILL` (R9). -/
  bFill : Byte
  /-- `N_DATA`, count of result bytes (R9). -/
  nData : Nat
  /-- `T_HALF_MS`, the wait per bit in milliseconds (R10). -/
  tHalfMs : Nat
  /-- `LINE_W`, visible characters of the display line (R10). -/
  lineW : Nat
  /-- `FIELD_W_MAX`, most characters of a field (R10). -/
  fieldWMax : Nat
  /-- `SCALE` (R10). -/
  scale : Nat
  /-- `SX_MIN` (R10). -/
  sxMin : Int
  /-- `SX_MAX` (R10). -/
  sxMax : Int
  /-- `VOLT_TAP` (R10). -/
  voltTap : VoltTap
  /-- `P_COL`, column of the power field (R10). -/
  pCol : Nat
  /-- `V_COL`, column of the voltage field (R10). -/
  vCol : Nat
  /-- `LINE_NO`, the display line the host passes to `showLine`, counted from 0 here (the spec's 1..4; R10). -/
  lineNo : Fin 4
  deriving DecidableEq, Repr

/-- What the spec leaves open: opaque constants, so that nothing can be proved of their values. -/
opaque Config.sdi : Peer

/-- SDO's level between power-on and the first XFER: "a draw at reset" (spec/10_state.md rule R42,
spec/93_implementation_defined.md U5). Log entry 4. -/
opaque Config.sdoAtReset : Bool

/-- `LINE_NO`, left OPEN by the spec (rule R10, spec/91_not_in_source.md N14). Log entry 11. -/
opaque Config.lineNo : Fin 4

/-- The defaults of the tables of rules R8, R9 and R10. -/
def Cfg.default : Cfg where
  vRef := { num := 247, den := 100 }
  adcGain := { num := 2 }
  opampGain := { num := 23, den := 10 }
  mwRatio := { num := 93, den := 10 }
  bReset := 0xFF
  nReset := 4
  bSelClk := 0x20
  bClkCfg := 0x04
  bSelSetup := 0x10
  bSetupCfg := 0x4C
  bRdData := 0x38
  bFill := 0xFF
  nData := 2
  tHalfMs := 1
  lineW := 15
  fieldWMax := 7
  scale := 10
  sxMin := -32768
  sxMax := 32767
  voltTap := .s1
  pCol := 0
  vCol := 8
  lineNo := Config.lineNo

/-- `INIT_ROM` (spec/10_state.md rule R28): `N_RESET` reset bytes, then the two two-byte register writes. -/
def Cfg.initRom (c : Cfg) : List Byte :=
  List.replicate c.nReset c.bReset ++ [c.bSelClk, c.bClkCfg, c.bSelSetup, c.bSetupCfg]

/-- `READ_ROM` (spec/10_state.md rule R28): the request byte, then `N_DATA` filler bytes. -/
def Cfg.readRom (c : Cfg) : List Byte :=
  c.bRdData :: List.replicate c.nData c.bFill

end Sys2Proof
end

