-- ==== Sys2Proof/Syntax.lean ====
section
/-! DEFINITION. The instructions: one constructor per row of spec/opcode_table.json. Eight are the operations the HOST
calls (format CMDW, spec/30_encoding.md rule R70); seven are the bytes the sequencer puts on the wire (format WIRE8,
rule R76). -/

namespace Sys2Proof

/-- The sequence SEQ is running, register `SQ` (spec/10_state.md rule R30). -/
inductive SeqId where
  | none
  | init
  | read
  deriving DecidableEq, Repr

/-- The instructions. -/
inductive Instr where
  /-- NOP: no operand, no effect (R208). -/
  | nop
  /-- XFER: exchange one byte with the PEER (R100). -/
  | xfer (out : Byte)
  /-- INIT: reset and configure the PEER (R120). -/
  | init
  /-- READ: fetch the conversion result (R123). -/
  | read
  /-- COND: run the pipeline once (R140). -/
  | cond
  /-- TARE: capture the zero offset (R152). -/
  | tare
  /-- FMT: scaled integer, i16 in two's complement, to text (R170). -/
  | fmt (v : Word16)
  /-- LINE: build the display buffer (R180). -/
  | line
  /-- W_RESET: SEQ sends the reset byte, `INIT_ROM[0..3]` (R76). -/
  | wReset
  /-- W_SEL_CLK: SEQ sends "select channel, target clock register", `INIT_ROM[4]` (R76). -/
  | wSelClk
  /-- W_CLK_CFG: SEQ sends the clock-register payload, `INIT_ROM[5]` (R76). -/
  | wClkCfg
  /-- W_SEL_SETUP: SEQ sends "select channel, target setup register", `INIT_ROM[6]` (R76). -/
  | wSelSetup
  /-- W_SETUP_CFG: SEQ sends the setup payload, `INIT_ROM[7]` (R76). -/
  | wSetupCfg
  /-- W_RD_DATA: SEQ sends "request latest conversion result", `READ_ROM[0]` (R76). -/
  | wRdData
  /-- W_FILL: SEQ sends a filler byte while a result byte comes in, `READ_ROM[1..2]` (R76). -/
  | wFill
  deriving DecidableEq, Repr

/-- An encoded instruction: a command word, or a byte of the wire with the position SEQ sends it from. The wire is
"decoded by position, not by value" (rule R77): W_RESET and W_FILL are the same byte. -/
inductive CodeWord where
  | cmd (w : CmdWord)
  | wire (sq : SeqId) (idx : Nat) (b : Byte)
  deriving DecidableEq, Repr

end Sys2Proof
end

