-- ==== Sys2Proof/WellFormed.lean ====
section
/-! DEFINITION. What is checked of a build and of an encoding.

An `Instr` needs no check of its own: every field has the operand's type, and every u8 is a legal XFER operand, every
i16 a legal FMT operand (spec/30_encoding.md rule R81), so every `Instr` is well formed. What can be ill formed is a
configuration record (divisors that are zero, fields of the display line that overlap) and a code word (ignored bits
that are not 0, a wire byte at no position). -/

namespace Sys2Proof

/-- What a model requires of any `Cfg` it accepts: the two divisors are not 0 (rule R8), the counts the rules of
spec/41_sequencer.md are written for, the fixed widths (rules R10, R11), and columns at which two fields of the
greatest width fit (spec/92_eei_decisions.md, open parameters). -/
def Cfg.wf (c : Cfg) : Bool :=
  decide (c.adcGain ≠ 0) && decide (c.opampGain ≠ 0)
    && decide (c.nReset = 4) && decide (c.nData = 2)
    && decide (c.lineW = 15) && decide (c.fieldWMax = 7) && decide (c.scale = 10)
    && decide (c.sxMin = -32768) && decide (c.sxMax = 32767)
    && decide (c.pCol + c.fieldWMax ≤ c.vCol) && decide (c.vCol + c.fieldWMax ≤ c.lineW)

/-- A canonical command word has every ignored bit 0 (rule R72): the whole OPERAND for NOP, INIT, READ, COND, TARE and
LINE, `OPERAND[15:8]` for XFER, no bit for FMT. -/
def CmdWord.canonical (w : CmdWord) : Bool :=
  let opsel := w.toNat / 65536
  let operand := w.toNat % 65536
  if opsel = 6 then true else if opsel = 1 then decide (operand < 256) else decide (operand = 0)

/-- A position SEQ sends a wire byte from (spec/10_state.md rule R30): `INIT_ROM[0..7]`, `READ_ROM[0..2]`. -/
def SeqId.hasSlot : SeqId → Nat → Bool
  | .none, _ => false
  | .init, idx => decide (idx < 8)
  | .read, idx => decide (idx < 3)

/-- A well-formed code word: a canonical command word, or a wire byte at a position that exists. -/
def CodeWord.wf : CodeWord → Bool
  | .cmd w => CmdWord.canonical w
  | .wire sq idx _ => sq.hasSlot idx

end Sys2Proof
end

