-- ==== Sys2Proof/Machine/Build.lean ====
section
/-! DEFINITION. The build the instruction meanings run on: the documented defaults (spec/00_scope.md rules R4, R8 to
R10), and the environment that answers `sample SDI`. Log entries 3 and 11. -/

namespace Sys2Proof.Machine

/-- The configuration of the build: "normative here because no other source exists" (rule R4). -/
def build : Cfg := Cfg.default

/-- The PEER's answers: an opaque function, so that nothing is known of any sampled bit (spec/10_state.md rule R41,
spec/40_transceiver.md rule R105, spec/93_implementation_defined.md U1). -/
def peer : Peer := Config.sdi

end Sys2Proof.Machine
end

