-- ==== Sys2Proof/Machine/State.lean ====
section
/-! DEFINITION. The state of VLPCORE, every register of the table of spec/10_state.md rule R42, its value after reset,
and the reasons a step can stop. No step of the machine does. -/

namespace Sys2Proof.Machine

/-- The micro-step XFER will do next, register `PHASE` (spec/10_state.md rule R29). -/
inductive Phase where
  | idle
  | lower
  | drive
  | raise
  | wait
  | sample
  deriving DecidableEq, Repr

/-- The registers whose reset value is `none` and that some operation reads (spec/10_state.md rules R23, R42). -/
inductive Reg where
  | txb
  | rxb
  | rxh
  | raw
  | unb
  | px10
  | vx10
  deriving DecidableEq, Repr

/-- Faults: there is none. "VLPCORE raises no synchronous exception. No operation faults, traps, aborts or returns an
error code" (spec/60_exceptions.md rule R200); no definition raises one. -/
inductive Fault : Type
  deriving DecidableEq, Repr

/-- Why the model gives a step no meaning. -/
inductive Refusal where
  /-- raised by an arm of `exec` for an instruction that has no meaning yet; safe. No arm does. -/
  | notModelled (mnemonic : String)
  /-- raised by `stepWith` in a state whose `SQ`, `IDX` select a byte the decoder rejects: only for a configuration that
  `Cfg.wf` rejects. `step` raises it in no state. Safe. -/
  | undecodable (sq : SeqId) (idx : Nat)
  deriving DecidableEq, Repr

/-- What an operation hands back to the HOST (spec/30_encoding.md rule R73). -/
inductive Returned where
  /-- XFER: the byte received. -/
  | byte (b : Byte)
  /-- READ: the raw code. -/
  | sample (r : Word16)
  /-- FMT: its characters, in emission order. -/
  | chars (cs : List Byte)
  deriving DecidableEq, Repr

/-- The state. `none` is the spec's own content of a register that nothing has written (rule R23). -/
structure State where
  /-- SCK, the clock pin (R22). -/
  sck : Bool
  /-- SDO, the data output pin (R22). -/
  sdo : Bool
  /-- TXB, the byte being sent (R25). -/
  txb : Option Byte
  /-- RXB, the byte being received, element `i` its bit `i`, as eight optional bits (R26). -/
  rxb : Vector (Option Bool) 8
  /-- BITPOS, the bit position being exchanged (R27). -/
  bitpos : BitVec 3
  /-- PHASE (R29). -/
  phase : Phase
  /-- SQ, the sequence SEQ is running (R30). -/
  sq : SeqId
  /-- IDX, the index of the next byte to send (R30). -/
  idx : BitVec 4
  /-- RXH, the high byte of a READ (R31). -/
  rxh : Option Byte
  /-- RAW, the RawSample (R32). -/
  raw : Option Word16
  /-- BIAS, the CalibrationBias, mW (R33). -/
  bias : Rat
  /-- VOLT, stage 1, mV (R34). -/
  volt : Option Rat
  /-- MEAS, stage 2, mV (R34). -/
  meas : Option Rat
  /-- UNB, stage 3, mW (R34). -/
  unb : Option Rat
  /-- DISP, stage 4, mW (R34). -/
  disp : Option Rat
  /-- PX10, the power reading times 10, i16 (R35). -/
  px10 : Option Word16
  /-- VX10, the voltage reading times 10, i16 (R35). -/
  vx10 : Option Word16
  /-- POOR, power out of range (R36). -/
  poor : Bool
  /-- VOOR, voltage out of range (R36). -/
  voor : Bool
  /-- LINE[0..15], the display buffer (R37). -/
  line : Vector (Option Byte) 16
  /-- WIRE, the pin events since reset, oldest first: ghost state (R24). -/
  wire : List WireEvent
  /-- The model's own: how many bits have been sampled, the counter the free value `Config.sdi` is applied to. Log
  entry 3. -/
  draws : Nat
  /-- The model's own: the HOST's calls still to be made, as command words, next first. Log entry 1. -/
  calls : List CmdWord
  /-- The model's own: what operations have handed back to the HOST, oldest first. Log entry 2. -/
  returned : List Returned
  /-- The marks `refuse(unwritten REG)` has put on the run, oldest first (R23: "marks the run refused"): ghost state, which
  no operation reads. A run whose state carries a mark is one "about which the spec says nothing" (spec/60_exceptions.md
  rule R203). Log entry 5. -/
  refused : List Reg
  deriving DecidableEq, Repr

/-- The state after reset, which is power-on: the table of spec/10_state.md rule R42 (and spec/70_reset_and_hazards.md
rules R230 to R233). SDO is the draw of log entry 4; the model's own three fields are empty, and the
run carries no mark. -/
def State.reset : State where
  sck := true
  sdo := Config.sdoAtReset
  txb := none
  rxb := Vector.replicate 8 none
  bitpos := 0
  phase := .idle
  sq := .none
  idx := 0
  rxh := none
  raw := none
  bias := 0
  volt := none
  meas := none
  unb := none
  disp := none
  px10 := none
  vx10 := none
  poor := false
  voor := false
  line := Vector.replicate 16 none
  wire := []
  draws := 0
  calls := []
  returned := []
  refused := []

end Sys2Proof.Machine
end

