-- ==== Sys2Proof/Machine/Ops.lean ====
section
/-! DEFINITION. The named operations over outcomes, pins and registers that every unit uses.

VLPCORE has no addressable memory (spec/20_memory.md rule R50), so there is no read or write of memory here; it raises
no exception, has no trap entry and no trap return (spec/60_exceptions.md rules R200, R206, R207), so there is no
operation that takes an exception or returns from one. -/

namespace Sys2Proof.Machine

/-- The run is marked refused (spec/10_state.md rule R23). -/
def markRefused (r : Reg) (s : State) : State := { s with refused := s.refused ++ [r] }

/-- `refuse(unwritten REG)` (spec/10_state.md rule R23): the operation that read `none` has no effect, "it writes nothing"
(spec/42_pipeline.md rule R157), no value is put in the register's place, and the run is marked refused. The block itself
does not stop: "No operation faults, traps, aborts or returns an error code" (spec/60_exceptions.md rule R200), and a
refusal is no event of the hardware (rule R203). Log entry 5. -/
def refuse (r : Reg) (s : State) : Host.Outcome State Fault Refusal := .next (markRefused r s)

/-- First one step, then, if it answers a next state, another from there. -/
def andThen (o : Host.Outcome State Fault Refusal) (f : State → Host.Outcome State Fault Refusal) :
    Host.Outcome State Fault Refusal :=
  match o with
  | .next t => f t
  | .fault e => .fault e
  | .refused r => .refused r

/-- An operation hands its result to the HOST (spec/30_encoding.md rule R73). Log entry 2. -/
def returnToHost (r : Returned) (s : State) : State := { s with returned := s.returned ++ [r] }

/-- `TXB <- out` (spec/10_state.md rule R25). -/
def setTxb (out : Byte) (s : State) : State := { s with txb := some out }

/-- `BITPOS <- i` (spec/10_state.md rule R27). -/
def setBitpos (i : BitVec 3) (s : State) : State := { s with bitpos := i }

/-- `PHASE` becomes `ph` (spec/10_state.md rule R29). -/
def setPhase (ph : Phase) (s : State) : State := { s with phase := ph }

/-- `pin SCK <- 0`, event `Lo` (spec/00_scope.md rule R12). -/
def lowerSck (s : State) : State := { s with sck := false, wire := s.wire ++ [.lo] }

/-- `pin SDO <- b`, event `Dr(b)` (rule R12); the event is appended whether or not the level changes
(spec/40_transceiver.md rule R104). -/
def driveSdo (b : Bool) (s : State) : State := { s with sdo := b, wire := s.wire ++ [.dr b] }

/-- `pin SCK <- 1`, event `Hi` (rule R12). -/
def raiseSck (s : State) : State := { s with sck := true, wire := s.wire ++ [.hi] }

/-- `wait(T_HALF_MS)`, event `Wt`: changes no register, cannot fail and always returns (spec/60_exceptions.md rule
R212). Log entry 17. -/
def waitHalf (s : State) : State := { s with wire := s.wire ++ [.wt] }

/-- `b <- sample SDI ; RXB[BITPOS] <- b`, event `Sm(b)` (rules R12, R103). The bit is whatever the environment answers
to this draw and this wire trace. Log entry 3. -/
def sampleSdi (p : Peer) (s : State) : State :=
  let b := p s.draws s.wire
  { s with
    rxb := s.rxb.set s.bitpos.toNat (some b) s.bitpos.isLt
    wire := s.wire ++ [.sm b]
    draws := s.draws + 1 }

/-- RXB read as a byte: `none` while a bit of it has never been written (spec/10_state.md rule R26). -/
def rxbByte (v : Vector (Option Bool) 8) : Option Byte := do
  let b7 ← v[7]
  let b6 ← v[6]
  let b5 ← v[5]
  let b4 ← v[4]
  let b3 ← v[3]
  let b2 ← v[2]
  let b1 ← v[1]
  let b0 ← v[0]
  return byteOfBits b7 b6 b5 b4 b3 b2 b1 b0

/-- `return RXB`: XFER hands the byte it received to the HOST (spec/40_transceiver.md rule R100). -/
def returnRxb (s : State) : Host.Outcome State Fault Refusal :=
  match rxbByte s.rxb with
  | none => refuse .rxb s
  | some b => .next (returnToHost (.byte b) s)

end Sys2Proof.Machine
end

