-- ==== Sys2Proof/Machine/Operands.lean ====
section
/-! DEFINITION. The arithmetic of operands and values: truncation, the signed scaled value, the assembly of a sample,
characters. -/

namespace Sys2Proof.Machine

/-- `trunc(q)`: `q` with its fractional part discarded, rounding toward zero (spec/00_scope.md rule R12). -/
def trunc (q : Rat) : Int := if 0 ≤ q then q.floor else -((-q).floor)

/-- A value limited to the range of the scaled integer, `max(SX_MIN, min(SX_MAX, z))`: `sat16` of rule R12. -/
def limit (c : Cfg) (z : Int) : Int := max c.sxMin (min c.sxMax z)

/-- `sat16(z)` as the 16-bit two's-complement register holds it (spec/42_pipeline.md rule R149). -/
def sat16 (c : Cfg) (z : Int) : Word16 := BitVec.ofInt 16 (limit c z)

/-- The scaled integer before saturation: the reading times `SCALE`, truncated (spec/42_pipeline.md rules R147,
R148). -/
def scaled (c : Cfg) (q : Rat) : Int := trunc (q * c.scale)

/-- `RAW <- zext_16(RXH) × 256 + zext_16(lo)` (spec/41_sequencer.md rules R124, R125): high byte first
(spec/20_memory.md rule R53), both bytes zero-extended. -/
def rawOf (hi lo : Byte) : Word16 := hi.setWidth 16 * 256 + lo.setWidth 16

/-- The magnitude of a scaled value, taken unsigned: 0 to 32768 (spec/43_formatter.md rule R172). -/
def magnitude (v : Word16) : Nat := v.toInt.natAbs

/-- Space, the sign column of a value that is not negative, and the padding (spec/43_formatter.md rule R171). -/
def charSpace : Byte := 0x20

/-- Minus (rule R171). -/
def charMinus : Byte := 0x2D

/-- Point (rule R171). -/
def charPoint : Byte := 0x2E

/-- The terminator of the display line (rule R171). -/
def charTerminator : Byte := 0x00

/-- `digit(k) = 0x30 + k` (rule R171). -/
def digit (k : Nat) : Byte := BitVec.ofNat 8 (0x30 + k)

end Sys2Proof.Machine
end

