-- ==== Sys2Proof/Machine/Formatter.lean ====
section
/-! DEFINITION. DFMT, the decimal formatter: FMT and LINE (spec/43_formatter.md). -/

namespace Sys2Proof.Machine

/-- The divisors, in order (rule R173). -/
def divisors : List Nat := [10000, 1000, 100, 10]

/-- One divisor of rule R173, on the running remainder and the digits emitted so far. The test is on the magnitude `m`,
not on the remainder (rule R174). -/
def emitDigit (m : Nat) (acc : Nat × List Byte) (d : Nat) : Nat × List Byte :=
  if d ≤ m then (acc.1 % d, acc.2 ++ [digit (acc.1 / d)]) else acc

/-- The remainder and the integer digits after all divisors (rule R173). -/
def digitsOf (m : Nat) : Nat × List Byte := divisors.foldl (emitDigit m) (m, [])

/-- The sign character: minus when negative, else a space (rule R172). -/
def signChar (v : Word16) : Byte := if v.toInt < 0 then charMinus else charSpace

/-- FMT's characters (rule R173): sign, the literal `'0'` when the magnitude is below 10, integer digits, point,
tenths digit. -/
def fmtChars (v : Word16) : List Byte :=
  let m := magnitude v
  [signChar v] ++ (if m < 10 then [digit 0] else []) ++ (digitsOf m).2 ++ [charPoint, digit (digitsOf m).1]

/-- FMT: emits its characters to the caller and writes no register (rules R170, R178; spec/10_state.md rule R38). -/
def execFmt (v : Word16) (s : State) : Host.Outcome State Fault Refusal :=
  .next (returnToHost (.chars (fmtChars v)) s)

/-- Characters written from a column on; what would fall outside the buffer is not written. -/
def putChars : Vector Byte 16 → Nat → List Byte → Vector Byte 16
  | buf, _, [] => buf
  | buf, col, ch :: rest => putChars (buf.setIfInBounds col ch) (col + 1) rest

/-- The buffer before the fields: spaces, and the terminator after the visible characters (rule R181). -/
def blankLine (c : Cfg) : Vector Byte 16 := (Vector.replicate 16 charSpace).setIfInBounds c.lineW charTerminator

/-- `line(px, vx)` (rules R181, R183): the power field at `P_COL`, the voltage field at `V_COL`. -/
def lineChars (c : Cfg) (px vx : Word16) : Vector Byte 16 :=
  putChars (putChars (blankLine c) c.pCol (fmtChars px)) c.vCol (fmtChars vx)

/-- LINE for any build: writes all 16 bytes, or refuses, writing nothing, when a scaled reading holds `none` (rules R180,
R181). DESIGN CHOICE, log entry 5: when both hold `none` the mark names PX10 alone; the rules say only "refuse". -/
def lineOp (c : Cfg) (s : State) : Host.Outcome State Fault Refusal :=
  match s.px10, s.vx10 with
  | none, _ => refuse .px10 s
  | some _, none => refuse .vx10 s
  | some px, some vx => .next { s with line := (lineChars c px vx).map some }

/-- LINE (rule R180). -/
def execLine (s : State) : Host.Outcome State Fault Refusal := lineOp build s

/-- A digit character's value. -/
def digitValue (ch : Byte) : Nat := ch.toNat - 0x30

/-- The number the characters before the point stand for, read on from `n`, and the characters after the point. -/
def readInt : Nat → List Byte → Nat × List Byte
  | n, [] => (n, [])
  | n, ch :: rest => if ch = charPoint then (n, rest) else readInt (10 * n + digitValue ch) rest

/-- Reading a field back (rule R179): `s × (10 × INT + DIGIT)`. -/
def fieldValue : List Byte → Int
  | [] => 0
  | sign :: rest =>
    let parsed := readInt 0 rest
    let z : Int := 10 * parsed.1 + (parsed.2.map digitValue).foldl (fun _ d => d) 0
    if sign = charMinus then -z else z

end Sys2Proof.Machine
end

