-- ==== Sys2Proof/Machine/Flags.lean ====
section
/-! DEFINITION. The two status flags, POOR and VOOR (spec/10_state.md rule R36). There are no condition codes, carry,
zero or sign flags. -/

namespace Sys2Proof.Machine

/-- The out-of-range flag of a scaled value: 1 exactly when the value lay outside the range and was saturated
(spec/42_pipeline.md rules R140, R149): `z ≠ sat16(z)`. -/
def outOfRange (c : Cfg) (z : Int) : Bool := decide (z < c.sxMin ∨ c.sxMax < z)

/-- COND overwrites both flags; they are not sticky (rule R36). -/
def setFlags (poor voor : Bool) (s : State) : State := { s with poor := poor, voor := voor }

end Sys2Proof.Machine
end

