-- ==== Sys2Proof/Machine/Pipeline.lean ====
section
/-! DEFINITION. GOP, the gain-and-offset pipeline: COND and TARE (spec/42_pipeline.md). Every stage value is an exact
rational and no stage rounds (rule R146; log entry 10). -/

namespace Sys2Proof.Machine

/-- `voltage(r) = r × V_REF / ADC_GAIN / 65536 × 1000`, mV, of a raw code by its unsigned value (rules R141, R142,
R155). -/
def voltage (c : Cfg) (r : Word16) : Rat := (r.toNat : Rat) * c.vRef / c.adcGain / 65536 * 1000

/-- `measured(r) = voltage(r) / OPAMP_GAIN`, mV (rules R141, R143). -/
def measured (c : Cfg) (r : Word16) : Rat := voltage c r / c.opampGain

/-- `unbiased(r) = measured(r) × MW_RATIO`, mW (rules R141, R144). -/
def unbiased (c : Cfg) (r : Word16) : Rat := measured c r * c.mwRatio

/-- `VTAP`: VOLT or MEAS, as `VOLT_TAP` says (rule R148). -/
def voltTapOf (c : Cfg) (r : Word16) : Rat :=
  match c.voltTap with
  | .s1 => voltage c r
  | .s2 => measured c r

/-- `zp`, the power reading times 10, truncated: an unbounded integer (rule R147). -/
def scaledPower (c : Cfg) (r : Word16) (bias : Rat) : Int := scaled c (unbiased c r - bias)

/-- `zv`, the voltage reading times 10, truncated (rule R148). -/
def scaledVoltage (c : Cfg) (r : Word16) : Int := scaled c (voltTapOf c r)

/-- The registers COND writes, from RAW and BIAS (rule R140). -/
def latch (c : Cfg) (r : Word16) (s : State) : State :=
  setFlags (outOfRange c (scaledPower c r s.bias)) (outOfRange c (scaledVoltage c r))
    { s with
      volt := some (voltage c r)
      meas := some (measured c r)
      unb := some (unbiased c r)
      disp := some (unbiased c r - s.bias)
      px10 := some (sat16 c (scaledPower c r s.bias))
      vx10 := some (sat16 c (scaledVoltage c r)) }

/-- COND for any build (rule R140); with RAW = `none` it refuses and writes nothing (rule R157). -/
def condOp (c : Cfg) (s : State) : Host.Outcome State Fault Refusal :=
  match s.raw with
  | none => refuse .raw s
  | some r => .next (latch c r s)

/-- COND (rule R140). -/
def execCond (s : State) : Host.Outcome State Fault Refusal := condOp build s

/-- TARE: `BIAS <- UNB`; with UNB = `none` it refuses (rule R152). -/
def execTare (s : State) : Host.Outcome State Fault Refusal :=
  match s.unb with
  | none => refuse .unb s
  | some q => .next { s with bias := q }

end Sys2Proof.Machine
end

