-- ==== Sys2Proof/Decode.lean ====
section
/-! DEFINITION. The decoder, total on every code word and rejecting by name, and the encoder, both from
spec/30_encoding.md rules R70 to R77.

Log entry 7: the wire byte 0xFF is both W_RESET and W_FILL and is told apart by its position alone (R77). -/

namespace Sys2Proof

/-- Why a code word is no instruction. -/
inductive DecodeError where
  /-- SEQ sends no byte from this position: `SQ` is NONE, or `IDX` is past the end of the table. -/
  | noSlot (sq : SeqId) (idx : Nat)
  /-- the byte is not the one the constant table holds at this position (R76: "INIT and READ never emit" another). -/
  | wrongByte (sq : SeqId) (idx : Nat) (b : Byte)
  /-- a number with a bit above bit 18, which no command word has (R71: 19 bits, one length only). -/
  | tooWide (w : Nat)
  /-- a number that is no byte of the wire table (R76). -/
  | notOnWire (w : Nat)
  deriving DecidableEq, Repr

/-- `OPSEL`, bits 18:16 (R71). -/
def opsel (w : CmdWord) : BitVec 3 := w.extractLsb' 16 3

/-- `OPERAND`, bits 15:0 (R71). -/
def operand (w : CmdWord) : Word16 := w.extractLsb' 0 16

/-- Operand of XFER: `OPERAND[7:0]`, an unsigned byte; `OPERAND[15:8]` is ignored (R72). -/
def xferOperand (w : CmdWord) : Byte := w.extractLsb' 0 8

/-- Decode of a command word. Every value of `OPSEL` selects an operation (R71, R81); the operand bits an operation
does not use are ignored whatever their value (R72). The last arm is `OPSEL = 7`. -/
def decodeCmd (w : CmdWord) : Instr :=
  match (opsel w).toNat with
  | 0 => .nop
  | 1 => .xfer (xferOperand w)
  | 2 => .init
  | 3 => .read
  | 4 => .cond
  | 5 => .tare
  | 6 => .fmt (operand w)
  | _ => .line

/-- The wire instruction at a position (the position column of R76; the constant tables of spec/10_state.md R28). -/
def wireInstr : SeqId → Nat → Option Instr
  | .none, _ => none
  | .init, idx =>
    if idx < 4 then some .wReset
    else if idx = 4 then some .wSelClk
    else if idx = 5 then some .wClkCfg
    else if idx = 6 then some .wSelSetup
    else if idx = 7 then some .wSetupCfg
    else none
  | .read, idx =>
    if idx = 0 then some .wRdData
    else if idx < 3 then some .wFill
    else none

/-- The constant table of a sequence (spec/10_state.md R28); no table when no sequence runs. -/
def romOf (c : Cfg) : SeqId → List Byte
  | .none => []
  | .init => c.initRom
  | .read => c.readRom

/-- Decode of a wire byte of any build: by its position, and only if it is the byte the build's table holds there (R76,
R77, R81). -/
def decodeWire (c : Cfg) (sq : SeqId) (idx : Nat) (b : Byte) : Except DecodeError Instr :=
  match wireInstr sq idx with
  | none => .error (.noSlot sq idx)
  | some i => if (romOf c sq)[idx]? = some b then .ok i else .error (.wrongByte sq idx b)

/-- Decode of any code word, for any build: the constant tables are part of `Cfg`, a parameter (spec/10_state.md rules
R21, R28). -/
def decodeWith (c : Cfg) : CodeWord → Except DecodeError Instr
  | .cmd w => .ok (decodeCmd w)
  | .wire sq idx b => decodeWire c sq idx b

/-- Decode of any code word of the build. -/
def decode (cw : CodeWord) : Except DecodeError Instr := decodeWith Machine.build cw

/-- A command word from its two fields, `OPSEL << 16` and the operand below it (R71). -/
def cmdWord (op : BitVec 3) (arg : Word16) : CmdWord := BitVec.ofNat 19 (op.toNat * 65536 + arg.toNat)

/-- The canonical encoding of an instruction in any build (R70 to R72, R76): ignored operand bits 0; a wire byte at the
first position that sends it. -/
def encodeWith (c : Cfg) : Instr → CodeWord
  | .nop => .cmd (cmdWord 0 0)
  | .xfer out => .cmd (cmdWord 1 (out.setWidth 16))
  | .init => .cmd (cmdWord 2 0)
  | .read => .cmd (cmdWord 3 0)
  | .cond => .cmd (cmdWord 4 0)
  | .tare => .cmd (cmdWord 5 0)
  | .fmt v => .cmd (cmdWord 6 v)
  | .line => .cmd (cmdWord 7 0)
  | .wReset => .wire .init 0 c.bReset
  | .wSelClk => .wire .init 4 c.bSelClk
  | .wClkCfg => .wire .init 5 c.bClkCfg
  | .wSelSetup => .wire .init 6 c.bSelSetup
  | .wSetupCfg => .wire .init 7 c.bSetupCfg
  | .wRdData => .wire .read 0 c.bRdData
  | .wFill => .wire .read 1 c.bFill

/-- The canonical encoding of an instruction in the build. -/
def encode (i : Instr) : CodeWord := encodeWith Machine.build i

/-- The first position, in `INIT_ROM` and then in `READ_ROM`, that sends a byte. -/
def firstSlot (b : Byte) : Option (SeqId × Nat) :=
  match (romOf Machine.build .init).findIdx? (· == b) with
  | some k => some (.init, k)
  | none =>
    match (romOf Machine.build .read).findIdx? (· == b) with
    | some k => some (.read, k)
    | none => none

/-- A number as a code word: a byte of the wire where the table gives the row 8 bits, a command word otherwise. -/
def codeWordOfNat (nbits w : Nat) : Except DecodeError CodeWord :=
  if nbits ≤ 8 then
    if w < 256 then
      match firstSlot (BitVec.ofNat 8 w) with
      | some (sq, idx) => .ok (.wire sq idx (BitVec.ofNat 8 w))
      | none => .error (.notOnWire w)
    else .error (.notOnWire w)
  else if w < 524288 then .ok (.cmd (BitVec.ofNat 19 w))
  else .error (.tooWide w)

/-- The instruction the decoder reads from the bits `w`, numbered as spec/opcode_table.json numbers them (bit 0 least
significant; CMDW rows have 19 bits, given in whole bytes as 24; WIRE8 rows have 8). -/
def decodeTableWord (nbits w : Nat) : Option Instr :=
  match codeWordOfNat nbits w with
  | .error _ => none
  | .ok cw =>
    match decode cw with
    | .ok i => some i
    | .error _ => none

end Sys2Proof
end

