-- ==== Sys2Proof/Machine/Transceiver.lean ====
section
/-! DEFINITION. SST, the synchronous serial transceiver: XFER (spec/40_transceiver.md).

The byte exchange stands here twice, as the spec gives it twice: the loop of rule R100 (`xferRun`, which the
instructions use) and the micro-step machine of rule R103 (`sstCall`, `sstStep`, which a step uses in a state found in
the middle of a byte). That they agree is an obligation. -/

namespace Sys2Proof.Machine

/-- The bit positions, high to low (rule R100). -/
def bitPositions : List (BitVec 3) := [7, 6, 5, 4, 3, 2, 1, 0]

/-- One bit of rule R100, in the order of rule R101: lower SCK, drive SDO, raise SCK, wait, sample SDI. -/
def xferBit (p : Peer) (out : Byte) (i : BitVec 3) (s : State) : State :=
  sampleSdi p (waitHalf (raiseSck (driveSdo (out.getLsbD i.toNat) (lowerSck (setBitpos i s)))))

/-- The loop of rule R100: eight bits, most significant first; `BITPOS` is 0 and `PHASE` is IDLE after it (rule R102). -/
def xferRun (p : Peer) (out : Byte) (s : State) : State :=
  setPhase .idle (bitPositions.foldl (fun t i => xferBit p out i t) (setTxb out s))

/-- The call of an XFER, first row of rule R103. -/
def sstCall (out : Byte) (s : State) : State := setPhase .lower (setBitpos 7 (setTxb out s))

/-- One micro-step of rule R103. In IDLE the agent has no SST step. The DRIVE row reads TXB (rule R25), which in a state
no run reaches may hold `none`. -/
def sstStep (p : Peer) (s : State) : Host.Outcome State Fault Refusal :=
  match s.phase with
  | .idle => .next s
  | .lower => .next (setPhase .drive (lowerSck s))
  | .drive =>
    match s.txb with
    | none => refuse .txb s
    | some out => .next (setPhase .raise (driveSdo (out.getLsbD s.bitpos.toNat) s))
  | .raise => .next (setPhase .wait (raiseSck s))
  | .wait => .next (setPhase .sample (waitHalf s))
  | .sample =>
    if s.bitpos = 0 then .next (setPhase .idle (sampleSdi p s))
    else .next (setPhase .lower (setBitpos (s.bitpos - 1) (sampleSdi p s)))

/-- XFER for any environment: exchange the byte, return RXB (rule R100). -/
def xferOp (p : Peer) (out : Byte) (s : State) : Host.Outcome State Fault Refusal :=
  returnRxb (xferRun p out s)

/-- XFER (rule R100). -/
def execXfer (out : Byte) (s : State) : Host.Outcome State Fault Refusal := xferOp peer out s

end Sys2Proof.Machine
end

