-- ==== Sys2Proof/Machine/Sequencer.lean ====
section
/-! DEFINITION. SEQ, the ADC protocol command sequencer: INIT and READ (spec/41_sequencer.md). SEQ touches the wire only
through XFER. -/

namespace Sys2Proof.Machine

/-- `SQ <- q ; IDX <- 0` (rules R121, R124). -/
def seqStart (q : SeqId) (s : State) : State := { s with sq := q, idx := 0 }

/-- `SQ <- NONE ; IDX <- 0` (rules R121, R124). -/
def seqStop (s : State) : State := { s with sq := .none, idx := 0 }

/-- What SEQ does when the byte at the current position has been exchanged: the second byte received in a READ goes to
RXH (rule R124); `IDX` goes one on, and no further than the length of the table (spec/10_state.md rule R30). With no
sequence running there is no table and nothing happens. -/
def seqAdvance (c : Cfg) (s : State) : State :=
  if s.idx.toNat < (romOf c s.sq).length then
    { s with
      rxh := if s.sq = .read ∧ s.idx = 1 then rxbByte s.rxb else s.rxh
      idx := s.idx + 1 }
  else s

/-- One byte of a sequence: XFER it, then step on. -/
def seqSend (c : Cfg) (p : Peer) (b : Byte) (s : State) : State := seqAdvance c (xferRun p b s)

/-- All bytes of a table in index order (rules R121, R130: straight line, `IDX` by one from 0 to the table's length). -/
def seqTable (c : Cfg) (p : Peer) (rom : List Byte) (s : State) : State :=
  rom.foldl (fun t b => seqSend c p b t) s

/-- The end of a sequence. INIT stops; READ assembles RAW from RXH and the low byte, which is what RXB holds after the
third transfer (rules R124, R125, R128), stops and returns RAW. DESIGN CHOICE, log entry 5: found with both RXH and RXB
incomplete, in states no run reaches, the mark names RXH alone. -/
def seqFinish (s : State) : Host.Outcome State Fault Refusal :=
  match s.sq with
  | .none => .next s
  | .init => .next (seqStop s)
  | .read =>
    match s.rxh, rxbByte s.rxb with
    | none, _ => refuse .rxh s
    | some _, none => refuse .rxb s
    | some h, some l =>
      .next (returnToHost (.sample (rawOf h l)) (seqStop { s with raw := some (rawOf h l) }))

/-- INIT for any build and environment (rule R121): the eight bytes of `INIT_ROM`, every received byte discarded. -/
def initOp (c : Cfg) (p : Peer) (s : State) : Host.Outcome State Fault Refusal :=
  .next (seqStop (seqTable c p c.initRom (seqStart .init s)))

/-- READ for any build and environment (rule R124): the three bytes of `READ_ROM`. -/
def readOp (c : Cfg) (p : Peer) (s : State) : Host.Outcome State Fault Refusal :=
  seqFinish (seqTable c p c.readRom (seqStart .read s))

/-- INIT (rule R120). -/
def execInit (s : State) : Host.Outcome State Fault Refusal := initOp build peer s

/-- READ (rule R123). It does not ask whether INIT ran (rule R127). -/
def execRead (s : State) : Host.Outcome State Fault Refusal := readOp build peer s

end Sys2Proof.Machine
end

