-- ==== Sys2Proof/Machine/System.lean ====
section
/-! DEFINITION. The one operation that belongs to no unit: NOP. -/

namespace Sys2Proof.Machine

/-- NOP: "It writes no register, no pin, no flag, appends nothing to `WIRE`, raises nothing and returns at once"
(spec/60_exceptions.md rule R208). -/
def execNop (s : State) : Host.Outcome State Fault Refusal := .next s

end Sys2Proof.Machine
end

