-- ==== Sys2Proof/Machine/WireBytes.lean ====
section
/-! DEFINITION. The seven WIRE8 rows of the opcode table (spec/30_encoding.md rule R76) as instructions.

Each is one line of the pseudocode of spec/41_sequencer.md rules R121 and R124: XFER of that byte, whose result goes to
no one but RXB (and RXH, for the second byte of a READ), and `IDX` one on. What the byte does there is settled by the
position, `SQ` and `IDX`, never by its value (rule R77); with no sequence running it is the bare XFER that rule R84
expands INIT and READ to. Log entry 6. -/

namespace Sys2Proof.Machine

/-- One byte of a sequence sent as an instruction, for any build and environment (rules R121, R124). -/
def wireOp (c : Cfg) (p : Peer) (b : Byte) (s : State) : Host.Outcome State Fault Refusal := .next (seqSend c p b s)

/-- W_RESET: `_ <- XFER(INIT_ROM[0..3])` (rules R76, R121). -/
def execWReset (s : State) : Host.Outcome State Fault Refusal := wireOp build peer build.bReset s

/-- W_SEL_CLK: `_ <- XFER(INIT_ROM[4])` (rules R76, R121). -/
def execWSelClk (s : State) : Host.Outcome State Fault Refusal := wireOp build peer build.bSelClk s

/-- W_CLK_CFG: `_ <- XFER(INIT_ROM[5])` (rules R76, R121). -/
def execWClkCfg (s : State) : Host.Outcome State Fault Refusal := wireOp build peer build.bClkCfg s

/-- W_SEL_SETUP: `_ <- XFER(INIT_ROM[6])` (rules R76, R121). -/
def execWSelSetup (s : State) : Host.Outcome State Fault Refusal := wireOp build peer build.bSelSetup s

/-- W_SETUP_CFG: `_ <- XFER(INIT_ROM[7])` (rules R76, R121). -/
def execWSetupCfg (s : State) : Host.Outcome State Fault Refusal := wireOp build peer build.bSetupCfg s

/-- W_RD_DATA: `_ <- XFER(READ_ROM[0])` (rules R76, R124). -/
def execWRdData (s : State) : Host.Outcome State Fault Refusal := wireOp build peer build.bRdData s

/-- W_FILL: `RXH <- XFER(READ_ROM[1])` and `lo <- XFER(READ_ROM[2])` (rules R76, R124). -/
def execWFill (s : State) : Host.Outcome State Fault Refusal := wireOp build peer build.bFill s

end Sys2Proof.Machine
end

