-- ==== Sys2Proof/Machine/Dispatch.lean ====
section
/-! DEFINITION. What each instruction does: one arm per constructor of `Instr`. -/

namespace Sys2Proof.Machine

def exec (i : Instr) (s : State) : Host.Outcome State Fault Refusal :=
  match i with
  | .nop => Sys2Proof.Machine.execNop s
  | .xfer out => Sys2Proof.Machine.execXfer out s
  | .init => Sys2Proof.Machine.execInit s
  | .read => Sys2Proof.Machine.execRead s
  | .cond => Sys2Proof.Machine.execCond s
  | .tare => Sys2Proof.Machine.execTare s
  | .fmt v => Sys2Proof.Machine.execFmt v s
  | .line => Sys2Proof.Machine.execLine s
  | .wReset => Sys2Proof.Machine.execWReset s
  | .wSelClk => Sys2Proof.Machine.execWSelClk s
  | .wClkCfg => Sys2Proof.Machine.execWClkCfg s
  | .wSelSetup => Sys2Proof.Machine.execWSelSetup s
  | .wSetupCfg => Sys2Proof.Machine.execWSetupCfg s
  | .wRdData => Sys2Proof.Machine.execWRdData s
  | .wFill => Sys2Proof.Machine.execWFill s

end Sys2Proof.Machine
end

