-- ==== Sys2Proof/Machine/Fetch.lean ====
section
/-! DEFINITION. What the next step is.

VLPCORE has no program counter and fetches no instructions (spec/10_state.md rule R30): the HOST calls operations, one
at a time, and between operations nothing runs (rules R20, R45). So a step makes the HOST's next call. A state found in
the middle of an operation (`PHASE` not IDLE, or `SQ` not NONE), which no run from reset reaches because operations
run to completion, goes on from there: the next micro-step of the byte, the next byte of the sequence, or the end of
the sequence. Log entries 1 and 8. -/

namespace Sys2Proof.Machine

/-- What the next step does. -/
inductive Fetched where
  /-- nothing runs and the HOST has no call pending: the block waits (spec/70_reset_and_hazards.md rule R231). -/
  | idle
  /-- a byte is being exchanged: the next micro-step (spec/40_transceiver.md rule R103). -/
  | micro
  /-- a sequence has sent its last byte: its end. -/
  | finish
  /-- an instruction to execute, and the state to execute it in. -/
  | instr (i : Instr) (s : State)
  /-- the decoder rejects what the position registers select. -/
  | bad (r : Refusal)

/-- The instruction of a code word, to execute in `s`. -/
def fetchCode (c : Cfg) (cw : CodeWord) (s : State) : Fetched :=
  match decodeWith c cw with
  | .ok i => .instr i s
  | .error _ => .bad (.undecodable s.sq s.idx.toNat)

/-- The next step of a running sequence: the byte `IDX` selects, decoded by its position (spec/30_encoding.md rule
R77). -/
def fetchSeq (c : Cfg) (s : State) : Fetched :=
  match (romOf c s.sq)[s.idx.toNat]? with
  | some b => fetchCode c (.wire s.sq s.idx.toNat b) s
  | none => .finish

/-- The HOST's next call. -/
def fetchCall (c : Cfg) (s : State) : Fetched :=
  match s.calls with
  | [] => .idle
  | w :: rest => fetchCode c (.cmd w) { s with calls := rest }

/-- What the next step does, in any build. -/
def fetch (c : Cfg) (s : State) : Fetched :=
  if s.phase = .idle then
    if s.sq = .none then fetchCall c s else fetchSeq c s
  else .micro

/-- What follows the eighth sample of a byte: SEQ's own transfers step the sequence on, a direct XFER returns RXB. -/
def byteDone (c : Cfg) (s : State) : Host.Outcome State Fault Refusal :=
  if s.sq = .none then returnRxb s else .next (seqAdvance c s)

/-- One micro-step of a byte found half exchanged. -/
def microStep (c : Cfg) (p : Peer) (s : State) : Host.Outcome State Fault Refusal :=
  andThen (sstStep p s) fun t => if t.phase = .idle then byteDone c t else .next t

/-- One step over a meaning of the instructions, for any build and environment. With no call pending the block stays as
it is (spec/70_reset_and_hazards.md rule R231). -/
def stepOver (c : Cfg) (p : Peer) (run : Instr → State → Host.Outcome State Fault Refusal) (s : State) :
    Host.Outcome State Fault Refusal :=
  match fetch c s with
  | .idle => .next s
  | .micro => microStep c p s
  | .finish => seqFinish s
  | .instr i t => run i t
  | .bad r => .refused r

/-- A code word placed where the next step takes its instruction from: a command word becomes the HOST's next call, a
wire byte is selected by its position; nothing else is left half done. -/
def placeCode (cw : CodeWord) (s : State) : State :=
  match cw with
  | .cmd w => { s with phase := .idle, sq := .none, calls := w :: s.calls }
  | .wire sq idx _ => { s with phase := .idle, sq := sq, idx := BitVec.ofNat 4 idx }

/-- The instruction with the bits `w`, placed for the next step (see `decodeTableWord` for the numbering). Bits that
are no code word at all cannot be placed, and leave the state as it is. -/
def placeWord (s : State) (nbits w : Nat) : State :=
  match codeWordOfNat nbits w with
  | .ok cw => placeCode cw s
  | .error _ => s

end Sys2Proof.Machine
end

