-- ==== Sys2Proof/Machine/Step.lean ====
section
/-! DEFINITION. One step of the machine: one call of the HOST, run to completion (spec/10_state.md rule R20). -/

namespace Sys2Proof.Machine

/-- One step of the build: `stepWith` of `Machine/AnyBuild.lean` at the build and its environment. -/
def step (s : State) : Host.Outcome State Fault Refusal := stepOver build peer exec s

/-- `s` with the instruction whose bits are `w` placed where the next step takes its instruction from. Log entry 1. -/
def State.withFetchWord (s : State) (nbits w : Nat) : State := placeWord s nbits w

end Sys2Proof.Machine
end

