-- ==== Sys2Proof/Machine/Run.lean ====
section
/-! DEFINITION. Several steps, and several operations, one after the other. -/

namespace Sys2Proof.Machine

/-- `k` steps, stopping at the first that answers no next state. -/
def steps : Nat → State → Host.Outcome State Fault Refusal
  | 0, s => .next s
  | k + 1, s => andThen (step s) (steps k)

/-- Operations called one after the other (spec/60_exceptions.md rule R222: a run is a finite list of operations). -/
def execAll : List Instr → State → Host.Outcome State Fault Refusal
  | [], s => .next s
  | i :: rest, s => andThen (exec i s) (execAll rest)

end Sys2Proof.Machine
end

