-- ==== Sys2Proof/Machine/Acquisition.lean ====
section
/-! DEFINITION. The HOST's side of the block: what it may read, and one Running iteration of
its loop (spec/10_state.md rule R43, spec/60_exceptions.md rules R216 to R220).

The Acquisition Loop and its collaborators are outside VLPCORE (spec/00_scope.md rule R6); they stand here because the
spec gives the order in which the loop calls the block's operations. -/

namespace Sys2Proof.Machine

/-- The registers the HOST may read between operations (rule R43, HOST column). -/
structure HostView where
  /-- RAW. -/
  raw : Option Word16
  /-- BIAS. -/
  bias : Rat
  /-- VOLT. -/
  volt : Option Rat
  /-- MEAS. -/
  meas : Option Rat
  /-- UNB. -/
  unb : Option Rat
  /-- DISP. -/
  disp : Option Rat
  /-- PX10. -/
  px10 : Option Word16
  /-- VX10. -/
  vx10 : Option Word16
  /-- POOR. -/
  poor : Bool
  /-- VOOR. -/
  voor : Bool
  /-- LINE[0..15]. -/
  line : Vector (Option Byte) 16
  deriving DecidableEq, Repr

/-- What the HOST can read in a state. -/
def hostView (s : State) : HostView where
  raw := s.raw
  bias := s.bias
  volt := s.volt
  meas := s.meas
  unb := s.unb
  disp := s.disp
  px10 := s.px10
  vx10 := s.vx10
  poor := s.poor
  voor := s.voor
  line := s.line

/-- FMT of the current content of a register, as the HOST writes `FMT PX10` (spec/30_encoding.md rule R83). -/
def fmtRegister (r : Reg) (v : Option Word16) (s : State) : Host.Outcome State Fault Refusal :=
  match v with
  | none => refuse r s
  | some x => exec (.fmt x) s

/-- The operations of one Running iteration up to the display (rule R220): READ, COND, FMT of both fields, LINE. -/
def measureAndFormat (s : State) : Host.Outcome State Fault Refusal :=
  andThen (execAll [.read, .cond] s) fun t =>
    andThen (fmtRegister .px10 t.px10 t) fun u =>
      andThen (fmtRegister .vx10 u.vx10 u) (exec .line)

/-- What one pass of the loop leaves. -/
structure LoopPass where
  /-- the block. -/
  core : State
  /-- the text handed to `showLine` (rule R216). -/
  shown : Vector (Option Byte) 16
  /-- the line number handed to `showLine`, 1 to 4 (rule R216). -/
  shownOn : Nat
  /-- the levels driven on the buzzer, 0 = sounding (rule R218). -/
  buzzer : List Bool
  /-- whether the HOST now waits for the button's release (rule R220). -/
  awaitRelease : Bool

/-- One Running iteration (rule R220) with the button at a level, 0 = pressed (rule R217): after the display, a press
sounds the buzzer, tares, and leaves the HOST waiting for the release. -/
def acquire (button : Bool) (s : State) : Host.Outcome LoopPass Fault Refusal :=
  match measureAndFormat s with
  | .fault e => .fault e
  | .refused r => .refused r
  | .next t =>
    if button then
      .next { core := t, shown := t.line, shownOn := build.lineNo.val + 1, buzzer := [], awaitRelease := false }
    else
      match exec .tare t with
      | .fault e => .fault e
      | .refused r => .refused r
      | .next u =>
        .next { core := u, shown := t.line, shownOn := build.lineNo.val + 1, buzzer := [false, true],
                awaitRelease := true }

end Sys2Proof.Machine
end

