-- ==== Sys2Proof/Machine/AnyBuild.lean ====
section
/-! DEFINITION. The machine with its parameters open: "Not state, but parameters of the step function: the configuration
record `Cfg` ..., including the constant tables `INIT_ROM` and `READ_ROM`; and the environment's answers to `sample SDI`"
(spec/10_state.md rule R21). `exec` and `step` are these at `build` and `peer`. NOP, TARE and FMT read no parameter. -/

namespace Sys2Proof.Machine

/-- What each instruction does, in any build and environment. -/
def execWith (c : Cfg) (p : Peer) (i : Instr) (s : State) : Host.Outcome State Fault Refusal :=
  match i with
  | .nop => execNop s
  | .xfer out => xferOp p out s
  | .init => initOp c p s
  | .read => readOp c p s
  | .cond => condOp c s
  | .tare => execTare s
  | .fmt v => execFmt v s
  | .line => lineOp c s
  | .wReset => wireOp c p c.bReset s
  | .wSelClk => wireOp c p c.bSelClk s
  | .wClkCfg => wireOp c p c.bClkCfg s
  | .wSelSetup => wireOp c p c.bSelSetup s
  | .wSetupCfg => wireOp c p c.bSetupCfg s
  | .wRdData => wireOp c p c.bRdData s
  | .wFill => wireOp c p c.bFill s

/-- The step function, in any build and environment (rules R20, R21). -/
def stepWith (c : Cfg) (p : Peer) (s : State) : Host.Outcome State Fault Refusal := stepOver c p (execWith c p) s

end Sys2Proof.Machine
end

