-- ==== Sys2Proof/Machine/Wire.lean ====
section
/-! DEFINITION. Reading the wire trace `WIRE` (spec/10_state.md rule R24): what the PEER received, what VLPCORE
received, and the least time the trace took. No operation reads `WIRE`; these are for claims (spec/30_encoding.md
rule R86, spec/70_reset_and_hazards.md rule R245). -/

namespace Sys2Proof.Machine

/-- The value a `Dr` event drives. -/
def driveOf : WireEvent → Option Bool
  | .dr b => some b
  | _ => none

/-- The value a `Sm` event sampled. -/
def sampleOf : WireEvent → Option Bool
  | .sm b => some b
  | _ => none

/-- The driven bits of a trace, in order. -/
def drives (es : List WireEvent) : List Bool := es.filterMap driveOf

/-- The sampled bits of a trace, in order. -/
def samples (es : List WireEvent) : List Bool := es.filterMap sampleOf

/-- What the PEER takes: at each `Hi`, the value of the most recent `Dr`, or the level SDO had before (rule R86). -/
def sentBits : Bool → List WireEvent → List Bool
  | _, [] => []
  | _, .dr b :: es => sentBits b es
  | level, .hi :: es => level :: sentBits level es
  | level, .lo :: es => sentBits level es
  | level, .wt :: es => sentBits level es
  | level, .sm _ :: es => sentBits level es

/-- Bits grouped eight at a time, first bit = bit 7 (rule R86); fewer than eight at the end make no byte. -/
def bytesOfBits : List Bool → List Byte
  | b7 :: b6 :: b5 :: b4 :: b3 :: b2 :: b1 :: b0 :: rest => byteOfBits b7 b6 b5 b4 b3 b2 b1 b0 :: bytesOfBits rest
  | _ => []

/-- The byte stream the PEER received (rule R86), with SDO at `level` before the trace. -/
def bytesSent (level : Bool) (es : List WireEvent) : List Byte := bytesOfBits (sentBits level es)

/-- The byte stream VLPCORE received (rule R86). -/
def bytesReceived (es : List WireEvent) : List Byte := bytesOfBits (samples es)

/-- A trace as whole bit cycles, each `Lo Dr Hi Wt Sm` (spec/40_transceiver.md rule R104): the bit driven and the bit
sampled of each, or `none` where the trace is no such list. -/
def bitCycles : List WireEvent → Option (List (Bool × Bool))
  | [] => some []
  | .lo :: .dr o :: .hi :: .wt :: .sm i :: es => (bitCycles es).map ((o, i) :: ·)
  | _ => none

/-- The five events of one bit (spec/40_transceiver.md rule R104). -/
def bitEvents (o i : Bool) : List WireEvent := [.lo, .dr o, .hi, .wt, .sm i]

/-- The forty events of one byte, from the byte driven and the bits sampled (rule R104). -/
def byteEvents (out : Byte) (b7 b6 b5 b4 b3 b2 b1 b0 : Bool) : List WireEvent :=
  bitEvents (out.getLsbD 7) b7 ++ bitEvents (out.getLsbD 6) b6 ++ bitEvents (out.getLsbD 5) b5
    ++ bitEvents (out.getLsbD 4) b4 ++ bitEvents (out.getLsbD 3) b3 ++ bitEvents (out.getLsbD 2) b2
    ++ bitEvents (out.getLsbD 1) b1 ++ bitEvents (out.getLsbD 0) b0

/-- The least time of a trace in milliseconds: `T_HALF_MS` for each wait (spec/70_reset_and_hazards.md rule R245). -/
def waitedMillis (c : Cfg) (es : List WireEvent) : Nat := c.tHalfMs * es.count .wt

/-- The level SDO holds at the end of a trace, from its level before. -/
def lastDrive (level : Bool) (es : List WireEvent) : Bool :=
  es.foldl (fun l e => match e with | .dr b => b | _ => l) level

/-- The loop-back environment of rule R106: it answers each sample with the current value of SDO. -/
def loopBack : Peer := fun _ es => lastDrive false es

end Sys2Proof.Machine
end

