-- ==== Sys2Proof/Safety.lean ====
section
/-! DEFINITION. What claims are stated in: the invariants of the machine and what it is for a step to complete. -/

namespace Sys2Proof.Machine

/-- The operation completes: it answers a next state. -/
def Completes (o : Host.Outcome State Fault Refusal) : Prop := ∃ t, o = .next t

/-- The wire bytes and the instructions that send them (spec/30_encoding.md rule R76). -/
def wireTable : List (Instr × Byte) :=
  [(.wReset, 0xFF), (.wSelClk, 0x20), (.wClkCfg, 0x04), (.wSelSetup, 0x10), (.wSetupCfg, 0x4C), (.wRdData, 0x38),
    (.wFill, 0xFF)]

/-- The same table in any build: the bytes are fields of its configuration (spec/00_scope.md rule R9). -/
def wireTableOf (c : Cfg) : List (Instr × Byte) :=
  [(.wReset, c.bReset), (.wSelClk, c.bSelClk), (.wClkCfg, c.bClkCfg), (.wSelSetup, c.bSelSetup),
    (.wSetupCfg, c.bSetupCfg), (.wRdData, c.bRdData), (.wFill, c.bFill)]

/-- `z` is `q` with its fraction dropped, toward zero: no farther from zero than `q`, by less than one, on its side
(spec/00_scope.md rule R12). -/
def TruncatesTo (q : Rat) (z : Int) : Prop := |(z : Rat)| ≤ |q| ∧ |q| < |(z : Rat)| + 1 ∧ 0 ≤ (z : Rat) * q

/-- Between operations (spec/10_state.md rule R45): `SCK = 1`, `PHASE = IDLE`, `SQ = NONE`, `IDX = 0`, `BITPOS = 0`, and
SDO holds bit 0 of the last byte sent. -/
structure Between (s : State) : Prop where
  sck : s.sck = true
  phase : s.phase = .idle
  sq : s.sq = .none
  idx : s.idx = 0
  bitpos : s.bitpos = 0
  sdo : ∀ b, s.txb = some b → s.sdo = b.getLsbD 0

/-- The positions SEQ can be at (spec/10_state.md rule R30): `IDX` within the running table, 0 when none runs. While a
byte is being exchanged `IDX` is the index of that byte, so it is inside the table. -/
def PositionOk (s : State) : Prop :=
  match s.sq with
  | .none => s.idx = 0
  | .init => s.idx.toNat ≤ 8 ∧ (s.phase ≠ .idle → s.idx.toNat < 8)
  | .read => s.idx.toNat ≤ 3 ∧ (s.phase ≠ .idle → s.idx.toNat < 3)

/-- The SST side of a state found at any micro-step (spec/40_transceiver.md rule R103): SCK's level for the phase, TXB
written, the bits of RXB above `BITPOS` received. -/
structure MicroOk (s : State) : Prop where
  sck : s.sck = true ↔ s.phase = .idle ∨ s.phase = .lower ∨ s.phase = .wait ∨ s.phase = .sample
  bitpos : s.phase = .idle → s.bitpos = 0
  txb : s.phase ≠ .idle → s.txb.isSome = true
  rxb : s.phase ≠ .idle → ∀ i : Fin 8, s.bitpos.toNat < i.val → (s.rxb[i]).isSome = true

/-- What a sequence has received at its position (spec/41_sequencer.md rule R124): RXB whole after its first byte, RXH
after the second byte of a READ. -/
structure ReceivedOk (s : State) : Prop where
  rxb : s.phase = .idle → s.sq ≠ .none → 0 < s.idx.toNat → (rxbByte s.rxb).isSome = true
  rxh : s.sq = .read → 2 ≤ s.idx.toNat → s.rxh.isSome = true

/-- A state as an operation, whole or half done, can leave it. -/
structure Consistent (s : State) : Prop where
  position : PositionOk s
  micro : MicroOk s
  received : ReceivedOk s

/-- The wire trace holds whole bytes, and one draw for each sampled bit (spec/20_memory.md rule R56,
spec/40_transceiver.md rule R104). -/
def WireWhole (s : State) : Prop :=
  ∃ cycles, bitCycles s.wire = some cycles ∧ cycles.length % 8 = 0 ∧ s.draws = cycles.length

/-- The pipeline registers hold what one COND latched (spec/10_state.md rules R34, R46): nothing yet, or every value
computed from one raw code `r` and the bias `unbiased(k)` of that moment. -/
def Latched (s : State) : Prop :=
  (s.volt = none ∧ s.meas = none ∧ s.unb = none ∧ s.disp = none ∧ s.px10 = none ∧ s.vx10 = none
    ∧ s.poor = false ∧ s.voor = false)
  ∨ ∃ r k : Word16,
      s.volt = some (voltage build r) ∧ s.meas = some (measured build r) ∧ s.unb = some (unbiased build r)
      ∧ s.disp = some (unbiased build r - unbiased build k)
      ∧ s.px10 = some (sat16 build (scaledPower build r (unbiased build k)))
      ∧ s.vx10 = some (sat16 build (scaledVoltage build r))
      ∧ s.poor = outOfRange build (scaledPower build r (unbiased build k))
      ∧ s.voor = false

/-- Every bias is the unbiased reading of some raw code (spec/10_state.md rule R33). -/
def BiasIsReading (s : State) : Prop := ∃ k : Word16, s.bias = unbiased build k

/-- LINE is all unwritten or all written, column 7 a space and the terminator at 15 (spec/43_formatter.md rules R181,
R182). -/
def LineOk (s : State) : Prop :=
  s.line = Vector.replicate 16 none
  ∨ ((∀ i : Fin 16, (s.line[i]).isSome = true) ∧ s.line[7] = some charSpace ∧ s.line[15] = some charTerminator)

end Sys2Proof.Machine
end

