-- ==== Sys2Proof/Certificates/Slice0/Obligations.lean ====
section
/-! DEFINITION. The statements for the provers. Each docstring says which rule of spec/ it formalises, and names the
decision of the spec (spec/92_eei_decisions.md) or the log entry where it rests on one. -/

open Sys2Proof Sys2Proof.Machine

/-- Reset values, table of spec/10_state.md section 11. BIAS = 0 and SCK = 1 are the document's; the others are the spec's
decision D14 and, for the model's own `draws`, `calls`, `returned`, `refused`, log entries 1, 2, 3 and 5. SDO is left out: it is a draw. -/
def Obligations.ResetRegisters : Prop :=
  State.reset.sck = true ∧ State.reset.txb = none ∧ State.reset.rxb = Vector.replicate 8 none
    ∧ State.reset.bitpos = 0 ∧ State.reset.phase = .idle ∧ State.reset.sq = .none ∧ State.reset.idx = 0
    ∧ State.reset.rxh = none ∧ State.reset.raw = none ∧ State.reset.bias = 0
    ∧ State.reset.volt = none ∧ State.reset.meas = none ∧ State.reset.unb = none ∧ State.reset.disp = none
    ∧ State.reset.px10 = none ∧ State.reset.vx10 = none ∧ State.reset.poor = false ∧ State.reset.voor = false
    ∧ State.reset.line = Vector.replicate 16 none ∧ State.reset.wire = [] ∧ State.reset.draws = 0
    ∧ State.reset.calls = [] ∧ State.reset.returned = [] ∧ State.reset.refused = []

/-- A step runs the decoded instruction: the HOST's next call, consumed; or, in a state found inside a sequence, the wire
byte at its position; and with no call pending nothing happens (log entries 1 and 8). -/
def Obligations.StepRunsDecoded : Prop :=
  (∀ s w rest i, s.phase = .idle → s.sq = .none → s.calls = w :: rest → decode (.cmd w) = .ok i →
      step s = exec i { s with calls := rest })
  ∧ (∀ s b i, s.phase = .idle → s.sq ≠ .none → (romOf build s.sq)[s.idx.toNat]? = some b →
      decode (.wire s.sq s.idx.toNat b) = .ok i → step s = exec i s)
  ∧ (∀ s, s.phase = .idle → s.sq = .none → s.calls = [] → step s = .next s)

/-- Decode of encode, every instruction with every operand (command words: the spec's decision D3). -/
def Obligations.DecodeOfEncode : Prop := ∀ i, (encode i).wf = true ∧ decode (encode i) = .ok i

/-- Encode of decode, every canonical command word (decision D3). -/
def Obligations.EncodeOfDecode : Prop := ∀ w, CmdWord.canonical w = true → encode (decodeCmd w) = .cmd w

/-- Operands: XFER takes `OPERAND[7:0]`, FMT takes OPERAND as two's complement, and bits an operation does not use are
ignored whatever their value; no OPSEL is illegal (decision D3). -/
def Obligations.OperandDecode : Prop :=
  (∀ w, opsel w = 1 → ∃ out, decode (.cmd w) = .ok (.xfer out) ∧ out.toNat = w.toNat % 256)
  ∧ (∀ w, opsel w = 6 → ∃ v, decode (.cmd w) = .ok (.fmt v)
      ∧ v.toInt = if w.toNat % 65536 < 32768 then ((w.toNat % 65536 : Nat) : Int)
          else ((w.toNat % 65536 : Nat) : Int) - 65536)
  ∧ (∀ w, opsel w ≠ 1 → opsel w ≠ 6 → decode (.cmd w) = decode (.cmd (cmdWord (opsel w) 0)))
  ∧ (∀ w, ∃ i, decode (.cmd w) = .ok i)

/-- The wire is decoded by position: a byte is an instruction exactly where the constant table holds it, 0xFF is W_RESET
at the first four positions of INIT and W_FILL at the last two of READ. -/
def Obligations.WireDecodeByPosition : Prop :=
  (∀ sq idx b, (∃ i, decode (.wire sq idx b) = .ok i) ↔ (romOf build sq)[idx]? = some b)
  ∧ (∀ idx, decode (.wire .init idx 0xFF) = .ok .wReset ↔ idx < 4)
  ∧ (∀ idx, decode (.wire .read idx 0xFF) = .ok .wFill ↔ idx = 1 ∨ idx = 2)
  ∧ (∀ idx b, ∃ e, decode (.wire .none idx b) = .error e)

/-- A few words written out from the encoding tables, each decoding to its instruction. The OPSEL numbers are decision
D3; that a word is read as a 24-bit row, and a wire byte by its value alone at its first position, is log entry 7 (the
spec decodes the wire by position). -/
def Obligations.SampleEncodings : Prop :=
  decodeTableWord 24 0x00000 = some .nop ∧ decodeTableWord 24 0x100A5 = some (.xfer 0xA5)
    ∧ decodeTableWord 24 0x30000 = some .read ∧ decodeTableWord 24 0x6FFFB = some (.fmt (BitVec.ofInt 16 (-5)))
    ∧ decodeTableWord 8 0x20 = some .wSelClk ∧ decodeTableWord 8 0x38 = some .wRdData

/-- NOP leaves every register and the wire as they are, whatever its ignored operand (the operation is the spec's own,
decision D3). -/
def Obligations.NopChangesNothing : Prop :=
  (∀ w, opsel w = 0 → decode (.cmd w) = .ok .nop) ∧ ∀ s, exec .nop s = .next s

/-- XFER: the state it leaves and the forty events it appends, in the order of the spec's decision D2; every other field
unchanged. The eight bits are whatever the environment answers. -/
def Obligations.XferTraceAndState : Prop :=
  ∀ s out, ∃ b7 b6 b5 b4 b3 b2 b1 b0 : Bool, exec (.xfer out) s = .next
    { s with
      sck := true
      sdo := out.getLsbD 0
      txb := some out
      rxb := #v[some b0, some b1, some b2, some b3, some b4, some b5, some b6, some b7]
      bitpos := 0
      phase := .idle
      wire := s.wire ++
        [.lo, .dr (out.getLsbD 7), .hi, .wt, .sm b7, .lo, .dr (out.getLsbD 6), .hi, .wt, .sm b6,
         .lo, .dr (out.getLsbD 5), .hi, .wt, .sm b5, .lo, .dr (out.getLsbD 4), .hi, .wt, .sm b4,
         .lo, .dr (out.getLsbD 3), .hi, .wt, .sm b3, .lo, .dr (out.getLsbD 2), .hi, .wt, .sm b2,
         .lo, .dr (out.getLsbD 1), .hi, .wt, .sm b1, .lo, .dr (out.getLsbD 0), .hi, .wt, .sm b0]
      draws := s.draws + 8
      returned := s.returned ++ [.byte (byteOfBits b7 b6 b5 b4 b3 b2 b1 b0)] }

/-- Each sampled bit is the environment's answer to that draw and the wire trace so far (spec/10_state.md R41; the form
of the answer is log entry 3). -/
def Obligations.SampledBitsAreAnswers : Prop :=
  ∀ (p : Peer) s out, ∃ b7 b6 b5 b4 b3 b2 b1 b0 t, xferOp p out s = .next t
    ∧ t.wire = s.wire ++ byteEvents out b7 b6 b5 b4 b3 b2 b1 b0
    ∧ ∀ k (_ : k < 8), [b7, b6, b5, b4, b3, b2, b1, b0][k]?
        = some (p (s.draws + k) (s.wire ++ (byteEvents out b7 b6 b5 b4 b3 b2 b1 b0).take (5 * k + 4)))

/-- XFER always completes and returns some byte, in every environment, and every byte is a possible result. -/
def Obligations.XferReturnsAnyByte : Prop :=
  (∀ (p : Peer) out s, ∃ b t, xferOp p out s = .next t ∧ t.returned = s.returned ++ [.byte b])
  ∧ (∀ out s b, ∃ (p : Peer) (t : State), xferOp p out s = .next t ∧ t.returned = s.returned ++ [.byte b])
  ∧ (∀ out s, ∃ b t, exec (.xfer out) s = .next t ∧ t.returned = s.returned ++ [.byte b])

/-- Bit order: most significant bit first in both directions. -/
def Obligations.BitOrderMsbFirst : Prop :=
  ∀ s out, ∃ ev b t, exec (.xfer out) s = .next t ∧ t.wire = s.wire ++ ev
    ∧ t.returned = s.returned ++ [.byte b] ∧ rxbByte t.rxb = some b
    ∧ drives ev = [out.getLsbD 7, out.getLsbD 6, out.getLsbD 5, out.getLsbD 4, out.getLsbD 3, out.getLsbD 2,
        out.getLsbD 1, out.getLsbD 0]
    ∧ samples ev = [b.getLsbD 7, b.getLsbD 6, b.getLsbD 5, b.getLsbD 4, b.getLsbD 3, b.getLsbD 2,
        b.getLsbD 1, b.getLsbD 0]

/-- The micro-step machine refines a direct XFER (the spec's decision D4; that a step goes on with a half-done byte is log
entry 8): with no sequence running, forty steps from the call reach what the operation answers, and none before the last
leaves the byte. A byte inside a sequence is MicroStepsInSequence. -/
def Obligations.MicroStepsAreXfer : Prop :=
  ∀ s out, s.sq = .none →
    steps 40 (sstCall out s) = exec (.xfer out) s
    ∧ ∀ k, k < 40 → ∃ t, steps k (sstCall out s) = .next t ∧ t.phase ≠ .idle

/-- The rows LOWER, DRIVE, RAISE, WAIT and SAMPLE of the micro-step table (decision D4), each as one step of the machine
(log entry 8). The row of the call itself, from IDLE, is no step of its own: MicroStepsAreXfer and MicroStepsInSequence
start from the state it leaves. What follows the last sample, the return or the sequence's advance, is log entry 8. -/
def Obligations.MicroStepRows : Prop :=
  (∀ s, s.phase = .lower → step s = .next (setPhase .drive (lowerSck s)))
  ∧ (∀ s out, s.phase = .drive → s.txb = some out →
      step s = .next (setPhase .raise (driveSdo (out.getLsbD s.bitpos.toNat) s)))
  ∧ (∀ s, s.phase = .raise → step s = .next (setPhase .wait (raiseSck s)))
  ∧ (∀ s, s.phase = .wait → step s = .next (setPhase .sample (waitHalf s)))
  ∧ (∀ s, s.phase = .sample → s.bitpos ≠ 0 →
      step s = .next (setPhase .lower (setBitpos (s.bitpos - 1) (sampleSdi peer s))))
  ∧ (∀ s, s.phase = .sample → s.bitpos = 0 → s.sq = .none →
      step s = returnRxb (setPhase .idle (sampleSdi peer s)))
  ∧ (∀ s, s.phase = .sample → s.bitpos = 0 → s.sq ≠ .none →
      step s = .next (seqAdvance build (setPhase .idle (sampleSdi peer s))))

/-- Loop-back: an environment that answers with SDO's level makes XFER return the byte it sent. -/
def Obligations.LoopBackEchoes : Prop :=
  ∀ s out, ∃ t, xferOp loopBack out s = .next t ∧ t.returned = s.returned ++ [.byte out]

/-- INIT: the eight bytes on the wire, 64 clock pulses in whole bit cycles, the state it leaves; every other field
unchanged. -/
def Obligations.InitSendsConfiguration : Prop :=
  (∀ w, opsel w = 2 → decode (.cmd w) = .ok .init)
  ∧ ∀ s, ∃ ev rx, exec .init s = .next
      { s with
        sck := true
        sdo := false
        txb := some 0x4C
        rxb := rx
        bitpos := 0
        phase := .idle
        sq := .none
        idx := 0
        wire := s.wire ++ ev
        draws := s.draws + 64 }
    ∧ (∀ level, bytesSent level ev = [0xFF, 0xFF, 0xFF, 0xFF, 0x20, 0x04, 0x10, 0x4C])
    ∧ ev.length = 320 ∧ (bitCycles ev).isSome = true ∧ ev.count .hi = 64
    ∧ (bytesReceived ev).length = 8 ∧ rxbByte rx = (bytesReceived ev).getLast?

/-- INIT equals its expansion to XFER, at the pins and in every register the HOST can read. -/
def Obligations.InitIsEightTransfers : Prop :=
  ∀ s, ∃ t u, exec .init s = .next t
    ∧ execAll [.xfer 0xFF, .xfer 0xFF, .xfer 0xFF, .xfer 0xFF, .xfer 0x20, .xfer 0x04, .xfer 0x10, .xfer 0x4C] s = .next u
    ∧ t.wire = u.wire ∧ t.sck = u.sck ∧ t.sdo = u.sdo ∧ t.draws = u.draws ∧ hostView t = hostView u

/-- READ: the two result bytes, high byte first, make RAW, the first of them kept in RXH. -/
def Obligations.ReadAssemblesSample : Prop :=
  ∀ s, ∃ ev c h l r t, exec .read s = .next t ∧ t.wire = s.wire ++ ev ∧ bytesReceived ev = [c, h, l]
    ∧ t.rxh = some h ∧ t.raw = some r ∧ r.extractLsb' 8 8 = h ∧ r.extractLsb' 0 8 = l ∧ r.toNat = 256 * h.toNat + l.toNat
    ∧ t.returned = s.returned ++ [.sample r]

/-- READ: the state it leaves; every other field unchanged. -/
def Obligations.ReadStateAfter : Prop :=
  ∀ s, ∃ (ev : List WireEvent) (rx : Vector (Option Bool) 8) (c h l : Byte), exec .read s = .next
      { s with
        sck := true
        sdo := true
        txb := some 0xFF
        rxb := rx
        bitpos := 0
        phase := .idle
        sq := .none
        idx := 0
        rxh := some h
        raw := some (rawOf h l)
        wire := s.wire ++ ev
        draws := s.draws + 24
        returned := s.returned ++ [.sample (rawOf h l)] }
    ∧ (∀ level, bytesSent level ev = [0x38, 0xFF, 0xFF]) ∧ bytesReceived ev = [c, h, l]
    ∧ ev.length = 120 ∧ (bitCycles ev).isSome = true ∧ rxbByte rx = some l

/-- READ may return any raw code, whatever the state (spec/41_sequencer.md R126; every sampled bit is a draw, decision
D17). -/
def Obligations.ReadReturnsAnySample : Prop :=
  ∀ s (v : Word16), ∃ (p : Peer) (t : State), readOp build p s = .next t ∧ t.raw = some v

/-- READ equals its expansion to XFER, at the pins and in every register the HOST can read, RAW assembled from the last
two results. -/
def Obligations.ReadIsThreeTransfers : Prop :=
  ∀ s, ∃ t u c h l, exec .read s = .next t
    ∧ execAll [.xfer 0x38, .xfer 0xFF, .xfer 0xFF] s = .next u
    ∧ u.returned = s.returned ++ [.byte c, .byte h, .byte l]
    ∧ t.wire = u.wire ∧ t.sck = u.sck ∧ t.sdo = u.sdo ∧ t.draws = u.draws
    ∧ hostView t = hostView { u with raw := some (rawOf h l) }

/-- A sequence run byte by byte, one wire instruction a step and then its end, is the operation (log entries 6 and 8). -/
def Obligations.SequenceByteByByte : Prop :=
  (∀ s, s.phase = .idle → steps 9 (seqStart .init s) = exec .init s)
  ∧ (∀ s, s.phase = .idle → steps 4 (seqStart .read s) = exec .read s)

/-- The wire instructions W_RESET, W_SEL_CLK, W_CLK_CFG, W_SEL_SETUP, W_SETUP_CFG, W_RD_DATA, W_FILL: each exchanges its
byte and steps the running sequence on; every other field unchanged (the meaning of these rows is log entry 6). -/
def Obligations.WireBytesAreSent : Prop :=
  ∀ i b, (i, b) ∈ wireTable → ∀ s, ∃ ev rx got, exec i s = .next
      { s with
        sck := true
        sdo := b.getLsbD 0
        txb := some b
        rxb := rx
        bitpos := 0
        phase := .idle
        rxh := if s.sq = .read ∧ s.idx = 1 then some got else s.rxh
        idx := if (s.sq = .init ∧ s.idx.toNat < 8) ∨ (s.sq = .read ∧ s.idx.toNat < 3) then s.idx + 1 else s.idx
        wire := s.wire ++ ev
        draws := s.draws + 8 }
    ∧ (∀ level, bytesSent level ev = [b]) ∧ bytesReceived ev = [got] ∧ rxbByte rx = some got ∧ ev.length = 40

/-- COND: the four stages, for every build and with the default constants; full scale is just below the reference, and
the displayed power may be negative. -/
def Obligations.CondStages : Prop :=
  (∀ c s r, s.raw = some r → ∃ t v m u, condOp c s = .next t
      ∧ t.volt = some v ∧ v = (r.toNat : Rat) * c.vRef / c.adcGain / 65536 * 1000
      ∧ t.meas = some m ∧ m = v / c.opampGain
      ∧ t.unb = some u ∧ u = m * c.mwRatio
      ∧ t.disp = some (u - s.bias))
  ∧ (∀ s r, s.raw = some r → ∃ t, exec .cond s = .next t
      ∧ t.volt = some ((r.toNat : Rat) * 1235 / 65536)
      ∧ t.meas = some ((r.toNat : Rat) * 6175 / 753664)
      ∧ t.unb = some ((r.toNat : Rat) * 114855 / 1507328)
      ∧ t.disp = some ((r.toNat : Rat) * 114855 / 1507328 - s.bias))
  ∧ voltage build 65535 < 1000 * (build.vRef / build.adcGain)
  ∧ ∃ s t d, exec .cond s = .next t ∧ t.disp = some d ∧ d < 0

/-- COND: the whole next state; the scaled readings truncate toward zero (decision D8), the voltage field shows stage 1
(decision D7), and a value outside the 16-bit range saturates with its flag set and never wraps (decision D9). Every
other field unchanged. -/
def Obligations.CondScaledReadings : Prop :=
  ∀ s r, s.raw = some r → ∃ (zp zv : Int) (px vx : Word16), exec .cond s = .next
      { s with
        volt := some (voltage build r)
        meas := some (measured build r)
        unb := some (unbiased build r)
        disp := some (unbiased build r - s.bias)
        px10 := some px
        vx10 := some vx
        poor := decide (zp < -32768 ∨ 32767 < zp)
        voor := decide (zv < -32768 ∨ 32767 < zv) }
    ∧ TruncatesTo ((unbiased build r - s.bias) * 10) zp ∧ TruncatesTo (voltage build r * 10) zv
    ∧ px.toInt = max (-32768) (min 32767 zp) ∧ vx.toInt = max (-32768) (min 32767 zv)

/-- COND in integers: with the bias the unbiased reading of a raw code `k`, the scaled power is an integer quotient
truncated toward zero, the scaled voltage a floor, and the flags are comparisons of raw codes (the integer forms the spec
derives; decisions D5, D7, D8, D9). -/
def Obligations.CondIntegerForm : Prop :=
  ∀ s (r k : Word16), s.raw = some r → s.bias = (k.toNat : Rat) * 114855 / 1507328 →
    ∃ t px vx, exec .cond s = .next t ∧ t.px10 = some px ∧ t.vx10 = some vx
      ∧ px.toInt = max (-32768) (min 32767 (Int.tdiv (((r.toNat : Int) - k.toNat) * 574275) 753664))
      ∧ vx.toNat = r.toNat * 12350 / 65536
      ∧ t.poor = decide (43004 ≤ (r.toNat : Int) - k.toNat ∨ (r.toNat : Int) - k.toNat ≤ -43006)
      ∧ t.voor = false

/-- COND of a build whose voltage field shows stage 2: the integer form of that tap (decisions D5, D7, D8). -/
def Obligations.CondVoltageTapS2 : Prop :=
  ∀ s (r : Word16), s.raw = some r →
    ∃ t vx, condOp { Cfg.default with voltTap := .s2 } s = .next t ∧ t.vx10 = some vx
      ∧ vx.toNat = r.toNat * 30875 / 376832 ∧ t.voor = false

/-- The bias is subtracted from power only, never from voltage: two CONDs of one raw code agree in everything but the
power reading. (With no raw code COND writes nothing: UnwrittenReadsRefuse.) -/
def Obligations.VoltageFreeOfBias : Prop :=
  ∀ c s s' t t' r, s.raw = some r → s'.raw = some r → condOp c s = .next t → condOp c s' = .next t' →
    t.volt = t'.volt ∧ t.meas = t'.meas ∧ t.unb = t'.unb ∧ t.vx10 = t'.vx10 ∧ t.voor = t'.voor

/-- A read of a register that holds `none` refuses the operation (decision D15): COND, TARE, LINE write nothing, and the
run is marked with the register (that the machine goes on, marked, and that LINE names PX10 alone when both readings hold
`none`, is the model's choice, log entry 5). -/
def Obligations.UnwrittenReadsRefuse : Prop :=
  (∀ s, s.raw = none → exec .cond s = .next { s with refused := s.refused ++ [.raw] })
  ∧ (∀ s, s.unb = none → exec .tare s = .next { s with refused := s.refused ++ [.unb] })
  ∧ (∀ s, s.px10 = none → exec .line s = .next { s with refused := s.refused ++ [.px10] })
  ∧ (∀ s px, s.px10 = some px → s.vx10 = none → exec .line s = .next { s with refused := s.refused ++ [.vx10] })

/-- TARE: BIAS takes UNB and nothing else changes (that it is the UNB of the last COND is decision D22). -/
def Obligations.TareSetsBias : Prop := ∀ s q, s.unb = some q → exec .tare s = .next { s with bias := q }

/-- Calibrate on A, then read B: the displayed power is exactly the difference of the unbiased readings. -/
def Obligations.CalibrationThenReading : Prop :=
  ∀ s (a b : Word16), s.raw = some a → ∃ t u, execAll [.cond, .tare] s = .next t
    ∧ exec .cond { t with raw := some b } = .next u
    ∧ u.disp = some (unbiased build b - unbiased build a)
    ∧ u.disp = some (((b.toNat : Rat) - a.toNat) * 114855 / 1507328)

/-- Calibration is idempotent: with the sample unchanged the displayed power is 0 after one tare and stays 0 after
another, and the bias does not accumulate. -/
def Obligations.CalibrationIdempotent : Prop :=
  ∀ s (r : Word16), s.raw = some r → ∃ t u, execAll [.cond, .tare, .cond] s = .next t
    ∧ t.disp = some 0 ∧ t.px10 = some 0 ∧ t.poor = false ∧ t.bias = unbiased build r
    ∧ execAll [.tare, .tare, .cond] t = .next u ∧ u.disp = some 0 ∧ u.bias = t.bias

/-- FMT completes on every operand with 4 to 7 characters handed to the caller and no register written. The codes of the
example's characters are ASCII by the spec's decision D12 (log entry 15), the OPSEL number is decision D3. -/
def Obligations.FmtTotal : Prop :=
  (∀ w, opsel w = 6 → decode (.cmd w) = .ok (.fmt (w.setWidth 16)))
  ∧ (∀ v s, ∃ cs, exec (.fmt v) s = .next { s with returned := s.returned ++ [.chars cs] }
      ∧ 4 ≤ cs.length ∧ cs.length ≤ 7)
  ∧ ∀ s, exec (.fmt 125) s = .next { s with returned := s.returned ++ [.chars [0x20, 0x31, 0x32, 0x2E, 0x35]] }

/-- The document's four formatter examples, as character codes: the document gives strings, the codes are ASCII by the
spec's decision D12 (log entry 15). -/
def Obligations.FmtDocumentExamples : Prop :=
  fmtChars 0 = [0x20, 0x30, 0x2E, 0x30]
    ∧ fmtChars (BitVec.ofInt 16 (-5)) = [0x2D, 0x30, 0x2E, 0x35]
    ∧ fmtChars 125 = [0x20, 0x31, 0x32, 0x2E, 0x35]
    ∧ fmtChars (BitVec.ofInt 16 (-9999)) = [0x2D, 0x39, 0x39, 0x39, 0x2E, 0x39]

/-- FMT in closed form: the sign, the decimal numeral of the magnitude's tens without leading zeros, the point, the last
digit (the spec derives it; magnitude unsigned by decision D10, interior zeros kept by D11, ASCII codes by D12, log
entries 14 and 15). -/
def Obligations.FmtClosedForm : Prop :=
  ∀ v s, exec (.fmt v) s = .next { s with
    returned := s.returned ++ [.chars ([if v.toInt < 0 then (0x2D : Byte) else 0x20]
      ++ (Nat.toDigits 10 (v.toInt.natAbs / 10)).map (fun ch => BitVec.ofNat 8 ch.toNat)
      ++ [0x2E, BitVec.ofNat 8 (48 + v.toInt.natAbs % 10)])] }

/-- The length of a field by the magnitude of its value (the spec's table, derived). -/
def Obligations.FieldLengths : Prop :=
  ∀ v : Word16, (fmtChars v).length =
    if v.toInt.natAbs < 100 then 4 else if v.toInt.natAbs < 1000 then 5 else if v.toInt.natAbs < 10000 then 6 else 7

/-- A field reads back to the value it was made from, and negative zero is never produced (the spec derives it; the codes
of "-0.0" are ASCII by decision D12, log entry 15; decisions D10 and D11, log entry 14). -/
def Obligations.FieldReadsBack : Prop :=
  ∀ v : Word16, fieldValue (fmtChars v) = v.toInt ∧ fmtChars v ≠ [0x2D, 0x30, 0x2E, 0x30]

/-- LINE: all sixteen bytes, the power field at column 0, the voltage field at column 8, spaces elsewhere, the terminator
at 15 (columns: decision D13, log entry 16; the codes 0x20 of the space and 0x00 of the terminator: decision D12, log
entry 15); every other field of the state unchanged. -/
def Obligations.LineLayout : Prop :=
  ∀ s px vx, s.px10 = some px → s.vx10 = some vx → ∃ L : Vector Byte 16,
    exec .line s = .next { s with line := L.map some }
    ∧ ∀ i, i < 16 → L[i]? = some (
        if i = 15 then 0x00
        else if i < (fmtChars px).length then (fmtChars px).getD i 0x20
        else if i < 8 then 0x20
        else (fmtChars vx).getD (i - 8) 0x20)

/-- LINE of any well-formed build: both fields stand whole at their columns, every other visible position is a space, and
the terminator is never overwritten (layout: decision D13, log entry 16; the codes 0x20 of the space and 0x00 of the
terminator: decision D12, log entry 15). -/
def Obligations.LineLayoutAnyColumns : Prop :=
  ∀ c s px vx, c.wf = true → s.px10 = some px → s.vx10 = some vx → ∃ L : Vector Byte 16,
    lineOp c s = .next { s with line := L.map some }
    ∧ (∀ j x, (fmtChars px)[j]? = some x → L[c.pCol + j]? = some x)
    ∧ (∀ j x, (fmtChars vx)[j]? = some x → L[c.vCol + j]? = some x)
    ∧ L[15]? = some 0x00
    ∧ ∀ i, i < 15 → (i < c.pCol ∨ c.pCol + (fmtChars px).length ≤ i) →
        (i < c.vCol ∨ c.vCol + (fmtChars vx).length ≤ i) → L[i]? = some 0x20

/-- Between operations SCK is 1, nothing is half done and SDO holds bit 0 of the last byte sent: true at reset and kept by
every step. -/
def Obligations.BetweenKept : Prop := Between State.reset ∧ ∀ s t, Between s → step s = .next t → Between t

/-- The invariants hold at reset. WireWhole there rests on the model's own counter `draws` being 0, and the trace it counts
against is empty: the 0 is the model's choice, log entry 3. -/
def Obligations.InvariantsAtReset : Prop :=
  Consistent State.reset ∧ WireWhole State.reset ∧ Latched State.reset ∧ BiasIsReading State.reset ∧ LineOk State.reset

/-- From every consistent state, whole or half done, a step goes on to a consistent state: it is never stuck in a byte or
a sequence (log entry 8), and it marks the run only for RAW, UNB, PX10 or VX10, at most once (decision D15, log entry
5). -/
def Obligations.ConsistentNeverStuck : Prop :=
  ∀ s, Consistent s → ∃ t, step s = .next t ∧ Consistent t
    ∧ (t.refused = s.refused ∨ ∃ r, r ∈ [Reg.raw, Reg.unb, Reg.px10, Reg.vx10] ∧ t.refused = s.refused ++ [r])

/-- The wire holds whole bytes of whole bit cycles between operations, one draw for each bit (the counter `draws` is the
model's own, log entry 3). -/
def Obligations.WireWholeKept : Prop :=
  ∀ s t, Between s → WireWhole s → step s = .next t → WireWhole t

/-- The pipeline registers always hold what one COND latched from one raw code and the bias of that moment, and the bias
is always the unbiased reading of some raw code. -/
def Obligations.LatchedKept : Prop :=
  ∀ s t, Latched s → BiasIsReading s → step s = .next t → Latched t ∧ BiasIsReading t

/-- LINE is never half written, and its column 7 and terminator stand. -/
def Obligations.LineOkKept : Prop := ∀ s t, LineOk s → step s = .next t → LineOk t

/-- The access table: which operations may change which registers, over all instructions. Two clauses are not in the table
but about the model's own fields: the pending calls are left (log entry 1), and only COND, TARE and LINE, the operations
that decision D15 lets refuse, mark the run (log entry 5); that `draws` is left is log entry 3. -/
def Obligations.OnlyTheirWriters : Prop :=
  ∀ i s t, exec i s = .next t →
    (t.raw ≠ s.raw → i = .read) ∧ (t.bias ≠ s.bias → i = .tare) ∧ (t.line ≠ s.line → i = .line)
    ∧ (¬ (t.volt = s.volt ∧ t.meas = s.meas ∧ t.unb = s.unb ∧ t.disp = s.disp ∧ t.px10 = s.px10 ∧ t.vx10 = s.vx10
          ∧ t.poor = s.poor ∧ t.voor = s.voor) → i = .cond)
    ∧ (i ∈ [.nop, .cond, .tare, .fmt 0, .line] ∨ (∃ v, i = .fmt v) →
        t.wire = s.wire ∧ t.sck = s.sck ∧ t.sdo = s.sdo ∧ t.txb = s.txb ∧ t.rxb = s.rxb ∧ t.bitpos = s.bitpos
        ∧ t.phase = s.phase ∧ t.sq = s.sq ∧ t.idx = s.idx ∧ t.rxh = s.rxh ∧ t.draws = s.draws)
    ∧ (∀ out, i = .xfer out → t.sq = s.sq ∧ t.idx = s.idx ∧ t.rxh = s.rxh)
    ∧ (i = .init → t.rxh = s.rxh)
    ∧ t.calls = s.calls ∧ (t.refused ≠ s.refused → i ∈ [.cond, .tare, .line])

/-- Every instruction answers a next state from every state, and completes with its own effect unless it reads a register
that holds `none`: it marks the run exactly then (decision D15, log entry 5). None ever faults or stops. -/
def Obligations.CompletesUnlessUnwritten : Prop :=
  ∀ i s, ∃ t, exec i s = .next t ∧ (t.refused = s.refused ↔
    ¬ ((i = .cond ∧ s.raw = none) ∨ (i = .tare ∧ s.unb = none) ∨ (i = .line ∧ (s.px10 = none ∨ s.vx10 = none))))

/-- The wire trace only grows: no step drops or reorders an event. -/
def Obligations.WireOnlyGrows : Prop := ∀ s t, step s = .next t → ∃ ev, t.wire = s.wire ++ ev

/-- The lower bounds on time, `T_HALF_MS` for each wait: 8 ms for XFER, 64 for INIT, 24 for READ, none for NOP, COND, TARE,
FMT and LINE (the spec derives them; durations are no part of the model, decision D20, log entry 17); and 8 for each of
the seven wire instructions, a byte of one bit per clock pulse, whose meaning as instructions is the model's choice, log
entry 6. -/
def Obligations.WaitLowerBounds : Prop :=
  ∀ i s t, exec i s = .next t → waitedMillis build t.wire = waitedMillis build s.wire + (match i with
    | .xfer _ => 8
    | .init => 64
    | .read => 24
    | .wReset | .wSelClk | .wClkCfg | .wSelSetup | .wSetupCfg | .wRdData | .wFill => 8
    | .nop | .cond | .tare | .fmt _ | .line => 0)

/-- One Running iteration of the HOST never refuses (it puts no mark on the run), from any state and with the button at
either level: what it shows is the line of that sample's two readings, and a press leaves the bias at the unbiased reading
of that sample. -/
def Obligations.AcquisitionPassCompletes : Prop :=
  ∀ button s, ∃ p r px vx, acquire button s = .next p ∧ p.core.raw = some r
    ∧ p.core.unb = some (unbiased build r) ∧ p.core.disp = some (unbiased build r - s.bias)
    ∧ px = sat16 build (scaledPower build r s.bias) ∧ vx = sat16 build (scaledVoltage build r)
    ∧ p.core.px10 = some px ∧ p.core.vx10 = some vx
    ∧ p.shown = (lineChars build px vx).map some ∧ p.core.line = p.shown
    ∧ p.core.returned = s.returned ++ [.sample r, .chars (fmtChars px), .chars (fmtChars vx)]
    ∧ p.core.refused = s.refused
    ∧ (button = true → p.core.bias = s.bias ∧ p.buzzer = [] ∧ p.awaitRelease = false)
    ∧ (button = false → p.core.bias = unbiased build r ∧ p.buzzer = [false, true] ∧ p.awaitRelease = true)

/-- The machine of the fixed names is the parametric one at the build and its environment: `Cfg` and the environment's
answers are parameters of the step function, not state (spec/10_state.md R21; the build is log entry 11). -/
def Obligations.ExecAndStepOfBuild : Prop :=
  (∀ i s, exec i s = execWith build peer i s) ∧ ∀ s, step s = stepWith build peer s

/-- A step of any build in any environment runs the decoded instruction (log entries 1 and 8). -/
def Obligations.StepWithRunsDecoded : Prop :=
  ∀ (c : Cfg) (p : Peer),
    (∀ s w rest i, s.phase = .idle → s.sq = .none → s.calls = w :: rest → decodeWith c (.cmd w) = .ok i →
      stepWith c p s = execWith c p i { s with calls := rest })
    ∧ (∀ s b i, s.phase = .idle → s.sq ≠ .none → (romOf c s.sq)[s.idx.toNat]? = some b →
      decodeWith c (.wire s.sq s.idx.toNat b) = .ok i → stepWith c p s = execWith c p i s)
    ∧ ∀ s, s.phase = .idle → s.sq = .none → s.calls = [] → stepWith c p s = .next s

/-- Decode of encode in every build the model accepts, every instruction with every operand (command words: decision D3;
a wire byte is encoded at the first position that sends it, log entry 7). -/
def Obligations.DecodeOfEncodeAnyBuild : Prop :=
  ∀ c : Cfg, c.wf = true → ∀ i, (encodeWith c i).wf = true ∧ decodeWith c (encodeWith c i) = .ok i

/-- Forty micro-steps of a byte inside a running sequence, from the state the call's row leaves, send that byte and step
the sequence on (decision D4; log entry 8), and none before the last leaves the byte. -/
def Obligations.MicroStepsInSequence : Prop :=
  ∀ s out, s.sq ≠ .none →
    steps 40 { s with txb := some out, bitpos := 7, phase := .lower } = .next (seqSend build peer out s)
    ∧ ∀ k, k < 40 → ∃ t, steps k { s with txb := some out, bitpos := 7, phase := .lower } = .next t ∧ t.phase ≠ .idle

/-- INIT of every build the model accepts, in every environment: the bytes of its table on the wire and the whole next
state. -/
def Obligations.InitAnyBuild : Prop :=
  ∀ (c : Cfg) (p : Peer) s, c.wf = true → ∃ ev rx, execWith c p .init s = .next
      { s with
        sck := true
        sdo := c.bSetupCfg.getLsbD 0
        txb := some c.bSetupCfg
        rxb := rx
        bitpos := 0
        phase := .idle
        sq := .none
        idx := 0
        wire := s.wire ++ ev
        draws := s.draws + 64 }
    ∧ (∀ level, bytesSent level ev
        = [c.bReset, c.bReset, c.bReset, c.bReset, c.bSelClk, c.bClkCfg, c.bSelSetup, c.bSetupCfg])
    ∧ ev.length = 320 ∧ (bitCycles ev).isSome = true ∧ rxbByte rx = (bytesReceived ev).getLast?

/-- READ of every build the model accepts, in every environment: the bytes on the wire, both ways, and the whole next
state. -/
def Obligations.ReadAnyBuild : Prop :=
  ∀ (c : Cfg) (p : Peer) s, c.wf = true → ∃ (ev : List WireEvent) (rx : Vector (Option Bool) 8) (g h l : Byte),
    execWith c p .read s = .next
      { s with
        sck := true
        sdo := c.bFill.getLsbD 0
        txb := some c.bFill
        rxb := rx
        bitpos := 0
        phase := .idle
        sq := .none
        idx := 0
        rxh := some h
        raw := some (rawOf h l)
        wire := s.wire ++ ev
        draws := s.draws + 24
        returned := s.returned ++ [.sample (rawOf h l)] }
    ∧ (∀ level, bytesSent level ev = [c.bRdData, c.bFill, c.bFill]) ∧ bytesReceived ev = [g, h, l]
    ∧ ev.length = 120 ∧ (bitCycles ev).isSome = true ∧ rxbByte rx = some l

/-- The wire instructions of every build the model accepts, in every environment: each exchanges its byte and steps the
running sequence on; every other field unchanged (the meaning of these rows is log entry 6). -/
def Obligations.WireBytesAnyBuild : Prop :=
  ∀ (c : Cfg) (p : Peer) i b, c.wf = true → (i, b) ∈ wireTableOf c → ∀ s, ∃ ev rx got, execWith c p i s = .next
      { s with
        sck := true
        sdo := b.getLsbD 0
        txb := some b
        rxb := rx
        bitpos := 0
        phase := .idle
        rxh := if s.sq = .read ∧ s.idx = 1 then some got else s.rxh
        idx := if (s.sq = .init ∧ s.idx.toNat < 8) ∨ (s.sq = .read ∧ s.idx.toNat < 3) then s.idx + 1 else s.idx
        wire := s.wire ++ ev
        draws := s.draws + 8 }
    ∧ (∀ level, bytesSent level ev = [b]) ∧ bytesReceived ev = [got] ∧ rxbByte rx = some got ∧ ev.length = 40

/-- COND of every build the model accepts: the whole next state, the voltage field on the stage the build's tap names,
truncation toward zero and saturation with a flag (decisions D7, D8, D9; log entry 13). -/
def Obligations.CondAnyBuild : Prop :=
  ∀ (c : Cfg) (p : Peer) s r, c.wf = true → s.raw = some r → ∃ (zp zv : Int) (px vx : Word16),
    execWith c p .cond s = .next
      { s with
        volt := some (voltage c r)
        meas := some (measured c r)
        unb := some (unbiased c r)
        disp := some (unbiased c r - s.bias)
        px10 := some px
        vx10 := some vx
        poor := decide (zp < -32768 ∨ 32767 < zp)
        voor := decide (zv < -32768 ∨ 32767 < zv) }
    ∧ TruncatesTo ((unbiased c r - s.bias) * 10) zp
    ∧ TruncatesTo ((if c.voltTap = .s1 then voltage c r else measured c r) * 10) zv
    ∧ px.toInt = max (-32768) (min 32767 zp) ∧ vx.toInt = max (-32768) (min 32767 zv)

/-- From every consistent state, whole or half done, a step of every build the model accepts, in every environment, goes
on to a consistent state, and marks the run only for RAW, UNB, PX10 or VX10, at most once (log entry 8; decision D15 and
log entry 5). -/
def Obligations.AnyBuildNeverStuck : Prop :=
  ∀ (c : Cfg) (p : Peer) s, c.wf = true → Consistent s → ∃ t, stepWith c p s = .next t ∧ Consistent t
    ∧ (t.refused = s.refused ∨ ∃ r, r ∈ [Reg.raw, Reg.unb, Reg.px10, Reg.vx10] ∧ t.refused = s.refused ++ [r])

/-- The machine never stops: from every state whatever, in every accepted build and environment, a step answers a next
state, and a mark on the run never goes away. The block signals nothing and never halts (spec/60_exceptions.md R200); that
a refused operation leaves a marked run to go on is log entry 5. -/
def Obligations.NeverStopsKeepsMarks : Prop :=
  (∀ (c : Cfg) (p : Peer) s, c.wf = true → ∃ t marks, stepWith c p s = .next t ∧ t.refused = s.refused ++ marks)
  ∧ ∀ s, ∃ t marks, step s = .next t ∧ t.refused = s.refused ++ marks
end

