-- ==== Sys2Proof/Laws/Decode.lean ====
section
/-! SUPPORT. The fields of a command word, said as numbers, and what they read from a word put together. -/

namespace Sys2Proof

theorem opsel_toNat (w : CmdWord) : (opsel w).toNat = w.toNat / 65536 := by
  simp [opsel, BitVec.extractLsb'_toNat, Nat.shiftRight_eq_div_pow]
  omega

theorem operand_toNat (w : CmdWord) : (operand w).toNat = w.toNat % 65536 := by
  simp [operand]

theorem xferOperand_toNat (w : CmdWord) : (xferOperand w).toNat = w.toNat % 256 := by
  simp [xferOperand]

theorem cmdWord_toNat (op : BitVec 3) (arg : Word16) : (cmdWord op arg).toNat = op.toNat * 65536 + arg.toNat := by
  simp [cmdWord]
  omega

@[simp] theorem opsel_cmdWord (op : BitVec 3) (arg : Word16) : opsel (cmdWord op arg) = op := by
  apply BitVec.eq_of_toNat_eq
  rw [opsel_toNat, cmdWord_toNat]
  omega

@[simp] theorem operand_cmdWord (op : BitVec 3) (arg : Word16) : operand (cmdWord op arg) = arg := by
  apply BitVec.eq_of_toNat_eq
  rw [operand_toNat, cmdWord_toNat]
  omega

@[simp] theorem xferOperand_cmdWord (op : BitVec 3) (arg : Word16) :
    xferOperand (cmdWord op arg) = arg.setWidth 8 := by
  apply BitVec.eq_of_toNat_eq
  rw [xferOperand_toNat, cmdWord_toNat, BitVec.toNat_setWidth]
  omega

/-- A command word decodes alike in every build. -/
@[simp] theorem decodeWith_cmd (c : Cfg) (w : CmdWord) : decodeWith c (.cmd w) = .ok (decodeCmd w) := rfl

@[simp] theorem decode_cmd (w : CmdWord) : decode (.cmd w) = .ok (decodeCmd w) := rfl

@[simp] theorem decodeWith_wire (c : Cfg) (sq : SeqId) (idx : Nat) (b : Byte) :
    decodeWith c (.wire sq idx b) = decodeWire c sq idx b := rfl

/-- A command word is its two fields. -/
theorem cmdWord_parts (w : CmdWord) : cmdWord (opsel w) (operand w) = w := by
  apply BitVec.eq_of_toNat_eq
  rw [cmdWord_toNat, opsel_toNat, operand_toNat]
  omega

/-- The eight values of `OPSEL`. -/
theorem opsel_cases (w : CmdWord) :
    opsel w = 0 ∨ opsel w = 1 ∨ opsel w = 2 ∨ opsel w = 3 ∨ opsel w = 4 ∨ opsel w = 5 ∨ opsel w = 6 ∨ opsel w = 7 := by
  generalize opsel w = o
  revert o
  decide

end Sys2Proof
end

