-- ==== Sys2Proof/Laws/Formatter.lean ====
section
/-! SUPPORT. What DFMT's shared operations do, said once: placing characters in the display line, and LINE as one write
of all sixteen bytes. -/

namespace Sys2Proof.Machine

/-- What stands at a position after characters have been placed. -/
theorem putChars_getElem (cs : List Byte) (buf : Vector Byte 16) (col i : Nat) (hi : i < 16) :
    (putChars buf col cs)[i] = if h : col ≤ i ∧ i < col + cs.length then cs[i - col]'(by omega) else buf[i] := by
  induction cs generalizing buf col with
  | nil =>
    rw [dif_neg (by simp)]
    rfl
  | cons ch rest ih =>
    rw [putChars, ih]
    by_cases h1 : col + 1 ≤ i ∧ i < col + 1 + rest.length
    · rw [dif_pos h1, dif_pos (by simp; omega)]
      obtain ⟨k, rfl⟩ : ∃ k, i = col + 1 + k := ⟨i - (col + 1), by omega⟩
      simp [show col + 1 + k - col = k + 1 by omega]
    · rw [dif_neg h1]
      by_cases h2 : col = i
      · subst h2
        rw [dif_pos (by simp)]
        simp
      · rw [dif_neg (by simp; omega)]
        simp [h2]

/-- The blank line: spaces but for the terminator. -/
theorem blankLine_getElem (c : Cfg) (i : Nat) (hi : i < 16) :
    (blankLine c)[i] = if c.lineW = i then charTerminator else charSpace := by
  simp [blankLine, Vector.getElem_setIfInBounds]

/-- LINE with both readings written. -/
theorem lineOp_some {c : Cfg} {s : State} {px vx : Word16} (h : s.px10 = some px) (h' : s.vx10 = some vx) :
    lineOp c s = .next { s with line := (lineChars c px vx).map some } := by
  simp [lineOp, h, h']

/-- Everything LINE can do: write all sixteen bytes, or mark the run. -/
theorem lineOp_next {c : Cfg} {s t : State} (h : lineOp c s = .next t) :
    (∃ px vx, s.px10 = some px ∧ s.vx10 = some vx ∧ t = { s with line := (lineChars c px vx).map some })
      ∨ (s.px10 = none ∧ t = markRefused .px10 s)
      ∨ (s.px10.isSome = true ∧ s.vx10 = none ∧ t = markRefused .vx10 s) := by
  unfold lineOp at h
  split at h
  · rename_i hp
    exact .inr (.inl ⟨hp, by cases h; rfl⟩)
  · rename_i px hp hv
    exact .inr (.inr ⟨by simp [hp], hv, by cases h; rfl⟩)
  · rename_i px vx hp hv
    exact .inl ⟨px, vx, hp, hv, by cases h; rfl⟩

end Sys2Proof.Machine
end

