-- ==== Sys2Proof/Laws/Outcome.lean ====
section
/-! SUPPORT. Outcomes one after the other. -/

namespace Sys2Proof.Machine

@[simp] theorem andThen_next (t : State) (f : State → Host.Outcome State Fault Refusal) :
    andThen (.next t) f = f t := rfl

@[simp] theorem andThen_refused (r : Refusal) (f : State → Host.Outcome State Fault Refusal) :
    andThen (.refused r) f = .refused r := rfl

@[simp] theorem andThen_fault (e : Fault) (f : State → Host.Outcome State Fault Refusal) :
    andThen (.fault e) f = .fault e := rfl

/-- No operation faults (spec/60_exceptions.md rule R200): there is no fault to raise. -/
theorem not_fault (o : Host.Outcome State Fault Refusal) (e : Fault) : o ≠ .fault e := nomatch e

/-- Two outcomes one after the other answer a next state only through one. -/
theorem andThen_eq_next {o : Host.Outcome State Fault Refusal} {f : State → Host.Outcome State Fault Refusal}
    {t : State} (h : andThen o f = .next t) : ∃ u, o = .next u ∧ f u = .next t := by
  cases o with
  | next u => exact ⟨u, rfl, h⟩
  | fault e => cases h
  | refused r => cases h

@[simp] theorem steps_zero (s : State) : steps 0 s = .next s := rfl

@[simp] theorem steps_succ (k : Nat) (s : State) : steps (k + 1) s = andThen (step s) (steps k) := rfl

@[simp] theorem execAll_nil (s : State) : execAll [] s = .next s := rfl

@[simp] theorem execAll_cons (i : Instr) (rest : List Instr) (s : State) :
    execAll (i :: rest) s = andThen (exec i s) (execAll rest) := rfl

end Sys2Proof.Machine
end

