-- ==== Sys2Proof/Laws/PerInstr.lean ====
section
/-! SUPPORT. Facts of every instruction as syntax, one lemma per constructor: its encoding is canonical (every ignored
operand bit 0, a wire byte at a position that exists). -/

namespace Sys2Proof.Laws.Canonical

/-- The instruction's encoding is a well-formed code word. -/
def Statement (i : Instr) : Prop := (encode i).wf = true

theorem nop : Statement .nop := by unfold Statement; decide

theorem xfer (out : Byte) : Statement (.xfer out) := by
  simp [Statement, encode, encodeWith, CodeWord.wf, CmdWord.canonical, cmdWord_toNat]
  omega

theorem init : Statement .init := by unfold Statement; decide

theorem read : Statement .read := by unfold Statement; decide

theorem cond : Statement .cond := by unfold Statement; decide

theorem tare : Statement .tare := by unfold Statement; decide

theorem fmt (v : Word16) : Statement (.fmt v) := by
  simp [Statement, encode, encodeWith, CodeWord.wf, CmdWord.canonical, cmdWord_toNat]
  omega

theorem line : Statement .line := by unfold Statement; decide

theorem wReset : Statement .wReset := by unfold Statement; decide

theorem wSelClk : Statement .wSelClk := by unfold Statement; decide

theorem wClkCfg : Statement .wClkCfg := by unfold Statement; decide

theorem wSelSetup : Statement .wSelSetup := by unfold Statement; decide

theorem wSetupCfg : Statement .wSetupCfg := by unfold Statement; decide

theorem wRdData : Statement .wRdData := by unfold Statement; decide

theorem wFill : Statement .wFill := by unfold Statement; decide

end Sys2Proof.Laws.Canonical
end

