-- ==== Sys2Proof/Laws/Pipeline.lean ====
section
/-! SUPPORT. The arithmetic of the pipeline, said once: truncation, saturation, the stages of the build. -/

namespace Sys2Proof.Machine

/-- `trunc` truncates toward zero. -/
theorem trunc_spec (q : Rat) : TruncatesTo q (trunc q) := by
  unfold TruncatesTo trunc
  split
  · rename_i h
    have h1 : (q.floor : Rat) ≤ q := by rw [← Rat.le_floor_iff]
    have h2 : q < (q.floor : Rat) + 1 := by
      have := Int.lt_floor_add_one q
      exact_mod_cast this
    have h3 : 0 ≤ (q.floor : Rat) := by
      have : 0 ≤ q.floor := by rw [Rat.le_floor_iff]; exact_mod_cast h
      exact_mod_cast this
    rw [abs_of_nonneg h, abs_of_nonneg h3]
    exact ⟨h1, h2, mul_nonneg h3 h⟩
  · rename_i h
    replace h := not_le.mp h
    have h1 : ((-q).floor : Rat) ≤ -q := by rw [← Rat.le_floor_iff]
    have h2 : -q < ((-q).floor : Rat) + 1 := by
      have := Int.lt_floor_add_one (-q)
      exact_mod_cast this
    have h3 : 0 ≤ ((-q).floor : Rat) := by
      have : 0 ≤ (-q).floor := by rw [Rat.le_floor_iff]; simpa using h.le
      exact_mod_cast this
    push_cast
    rw [abs_neg, abs_of_neg h, abs_of_nonneg h3]
    exact ⟨h1, h2, by nlinarith⟩

/-- Only one integer truncates a value. -/
theorem TruncatesTo.unique {q : Rat} {a b : Int} (ha : TruncatesTo q a) (hb : TruncatesTo q b) : a = b := by
  obtain ⟨a1, a2, a3⟩ := ha
  obtain ⟨b1, b2, b3⟩ := hb
  have e1 : |a| < |b| + 1 := by exact_mod_cast lt_of_le_of_lt a1 b2
  have e2 : |b| < |a| + 1 := by exact_mod_cast lt_of_le_of_lt b1 a2
  rcases abs_eq_abs.mp (by omega : |a| = |b|) with h | h
  · exact h
  · rcases lt_trichotomy q 0 with hq | hq | hq
    · have ha' : a ≤ 0 := by exact_mod_cast (by nlinarith : (a : Rat) ≤ 0)
      have hb' : b ≤ 0 := by exact_mod_cast (by nlinarith : (b : Rat) ≤ 0)
      omega
    · subst hq
      simp at a1 b1
      omega
    · have ha' : 0 ≤ a := by exact_mod_cast (by nlinarith : 0 ≤ (a : Rat))
      have hb' : 0 ≤ b := by exact_mod_cast (by nlinarith : 0 ≤ (b : Rat))
      omega

/-- A non-negative quotient truncates to the quotient of natural numbers. -/
theorem trunc_natDiv (n d : Nat) (hd : 0 < d) : trunc ((n : Rat) / d) = ((n / d : Nat) : Int) := by
  apply (trunc_spec _).unique
  have hd' : (0 : Rat) < d := by exact_mod_cast hd
  have h1 : ((n / d : Nat) : Rat) ≤ (n : Rat) / d := Nat.cast_div_le
  have h2 : (n : Rat) / d < ((n / d : Nat) : Rat) + 1 := by
    rw [div_lt_iff₀ hd']
    have := Nat.lt_mul_div_succ n hd
    have h : (n : Rat) < ((d * (n / d + 1) : Nat) : Rat) := by exact_mod_cast this
    push_cast at h
    linarith
  have q0 : (0 : Rat) ≤ (n : Rat) / d := by positivity
  have t0 : (0 : Rat) ≤ ((n / d : Nat) : Rat) := by positivity
  unfold TruncatesTo
  rw [Int.cast_natCast, abs_of_nonneg q0, abs_of_nonneg t0]
  exact ⟨h1, h2, by positivity⟩

/-- Truncation is odd: the same magnitude on either side of zero. -/
theorem trunc_neg (q : Rat) : trunc (-q) = -trunc q := by
  apply (trunc_spec _).unique
  obtain ⟨h1, h2, h3⟩ := trunc_spec q
  unfold TruncatesTo
  push_cast
  rw [abs_neg, abs_neg]
  exact ⟨h1, h2, by linarith⟩

/-- A quotient of integers truncates to the quotient rounded toward zero. -/
theorem trunc_div (n : Int) (d : Nat) (hd : 0 < d) : trunc ((n : Rat) / d) = Int.tdiv n d := by
  obtain ⟨k, rfl | rfl⟩ := Int.eq_nat_or_neg n
  · rw [Int.cast_natCast, trunc_natDiv k d hd]
    rfl
  · rw [Int.cast_neg, Int.cast_natCast, neg_div, trunc_neg, trunc_natDiv k d hd, Int.neg_tdiv]
    rfl

/-- The range the build saturates to. -/
theorem limit_build (z : Int) : limit build z = max (-32768) (min 32767 z) := rfl

/-- A saturated value, read as a signed number. -/
theorem sat16_toInt (z : Int) : (sat16 build z).toInt = max (-32768) (min 32767 z) := by
  rw [sat16, limit_build, BitVec.toInt_ofInt, Int.bmod_eq_of_le] <;> omega

/-- The range flag of the build. -/
theorem outOfRange_build (z : Int) : outOfRange build z = decide (z < -32768 ∨ 32767 < z) := rfl

/-- The constants of the build, as the spec writes them (spec/00_scope.md rule R8). -/
theorem build_vRef : build.vRef = 247 / 100 := by decide +kernel

theorem build_adcGain : build.adcGain = 2 := by decide +kernel

theorem build_opampGain : build.opampGain = 23 / 10 := by decide +kernel

theorem build_mwRatio : build.mwRatio = 93 / 10 := by decide +kernel

/-- The factor of the scaled readings, as a rational. -/
theorem build_scale : ((build.scale : Nat) : Rat) = 10 := by decide +kernel

/-- Stage 1 with the build's constants. -/
theorem voltage_build (r : Word16) : voltage build r = (r.toNat : Rat) * 1235 / 65536 := by
  simp only [voltage, build_vRef, build_adcGain]
  ring

/-- Stage 2 with the build's constants. -/
theorem measured_build (r : Word16) : measured build r = (r.toNat : Rat) * 6175 / 753664 := by
  simp only [measured, voltage_build, build_opampGain]
  ring

/-- Stage 3 with the build's constants. -/
theorem unbiased_build (r : Word16) : unbiased build r = (r.toNat : Rat) * 114855 / 1507328 := by
  simp only [unbiased, measured_build, build_mwRatio]
  ring

/-- COND with a sample is one latch of all its registers. -/
theorem condOp_some {c : Cfg} {s : State} {r : Word16} (h : s.raw = some r) : condOp c s = .next (latch c r s) := by
  simp [condOp, h]

/-- COND without a sample writes nothing and marks the run. -/
theorem condOp_none {c : Cfg} {s : State} (h : s.raw = none) : condOp c s = .next (markRefused .raw s) := by
  simp [condOp, h, refuse]

/-- Everything COND can do: latch all its registers from a sample, or mark the run. -/
theorem condOp_next {c : Cfg} {s t : State} (h : condOp c s = .next t) :
    (∃ r, s.raw = some r ∧ t = latch c r s) ∨ (s.raw = none ∧ t = markRefused .raw s) := by
  cases hr : s.raw with
  | none =>
    rw [condOp_none hr] at h
    exact .inr ⟨rfl, by cases h; rfl⟩
  | some r =>
    rw [condOp_some hr] at h
    exact .inl ⟨r, rfl, by cases h; rfl⟩

/-- Everything TARE can do: copy UNB to BIAS, or mark the run. -/
theorem execTare_next {s t : State} (h : execTare s = .next t) :
    (∃ q, s.unb = some q ∧ t = { s with bias := q }) ∨ (s.unb = none ∧ t = markRefused .unb s) := by
  unfold execTare at h
  split at h
  · rename_i hu
    exact .inr ⟨hu, by cases h; rfl⟩
  · rename_i q hu
    exact .inl ⟨q, hu, by cases h; rfl⟩

end Sys2Proof.Machine
end

