-- ==== Sys2Proof/Laws/State.lean ====
section
/-! SUPPORT. What each named update of the state does to each field: one lemma per field per update, so that no later
proof unfolds a record update. -/

namespace Sys2Proof.Machine

variable (s : State)

section setTxb
variable (out : Byte)
@[simp] theorem setTxb_sck : (setTxb out s).sck = s.sck := rfl
@[simp] theorem setTxb_sdo : (setTxb out s).sdo = s.sdo := rfl
@[simp] theorem setTxb_txb : (setTxb out s).txb = some out := rfl
@[simp] theorem setTxb_rxb : (setTxb out s).rxb = s.rxb := rfl
@[simp] theorem setTxb_bitpos : (setTxb out s).bitpos = s.bitpos := rfl
@[simp] theorem setTxb_phase : (setTxb out s).phase = s.phase := rfl
@[simp] theorem setTxb_sq : (setTxb out s).sq = s.sq := rfl
@[simp] theorem setTxb_idx : (setTxb out s).idx = s.idx := rfl
@[simp] theorem setTxb_rxh : (setTxb out s).rxh = s.rxh := rfl
@[simp] theorem setTxb_raw : (setTxb out s).raw = s.raw := rfl
@[simp] theorem setTxb_bias : (setTxb out s).bias = s.bias := rfl
@[simp] theorem setTxb_volt : (setTxb out s).volt = s.volt := rfl
@[simp] theorem setTxb_meas : (setTxb out s).meas = s.meas := rfl
@[simp] theorem setTxb_unb : (setTxb out s).unb = s.unb := rfl
@[simp] theorem setTxb_disp : (setTxb out s).disp = s.disp := rfl
@[simp] theorem setTxb_px10 : (setTxb out s).px10 = s.px10 := rfl
@[simp] theorem setTxb_vx10 : (setTxb out s).vx10 = s.vx10 := rfl
@[simp] theorem setTxb_poor : (setTxb out s).poor = s.poor := rfl
@[simp] theorem setTxb_voor : (setTxb out s).voor = s.voor := rfl
@[simp] theorem setTxb_line : (setTxb out s).line = s.line := rfl
@[simp] theorem setTxb_wire : (setTxb out s).wire = s.wire := rfl
@[simp] theorem setTxb_draws : (setTxb out s).draws = s.draws := rfl
@[simp] theorem setTxb_calls : (setTxb out s).calls = s.calls := rfl
@[simp] theorem setTxb_returned : (setTxb out s).returned = s.returned := rfl
@[simp] theorem setTxb_refused : (setTxb out s).refused = s.refused := rfl
end setTxb

section setBitpos
variable (i : BitVec 3)
@[simp] theorem setBitpos_sck : (setBitpos i s).sck = s.sck := rfl
@[simp] theorem setBitpos_sdo : (setBitpos i s).sdo = s.sdo := rfl
@[simp] theorem setBitpos_txb : (setBitpos i s).txb = s.txb := rfl
@[simp] theorem setBitpos_rxb : (setBitpos i s).rxb = s.rxb := rfl
@[simp] theorem setBitpos_bitpos : (setBitpos i s).bitpos = i := rfl
@[simp] theorem setBitpos_phase : (setBitpos i s).phase = s.phase := rfl
@[simp] theorem setBitpos_sq : (setBitpos i s).sq = s.sq := rfl
@[simp] theorem setBitpos_idx : (setBitpos i s).idx = s.idx := rfl
@[simp] theorem setBitpos_rxh : (setBitpos i s).rxh = s.rxh := rfl
@[simp] theorem setBitpos_raw : (setBitpos i s).raw = s.raw := rfl
@[simp] theorem setBitpos_bias : (setBitpos i s).bias = s.bias := rfl
@[simp] theorem setBitpos_volt : (setBitpos i s).volt = s.volt := rfl
@[simp] theorem setBitpos_meas : (setBitpos i s).meas = s.meas := rfl
@[simp] theorem setBitpos_unb : (setBitpos i s).unb = s.unb := rfl
@[simp] theorem setBitpos_disp : (setBitpos i s).disp = s.disp := rfl
@[simp] theorem setBitpos_px10 : (setBitpos i s).px10 = s.px10 := rfl
@[simp] theorem setBitpos_vx10 : (setBitpos i s).vx10 = s.vx10 := rfl
@[simp] theorem setBitpos_poor : (setBitpos i s).poor = s.poor := rfl
@[simp] theorem setBitpos_voor : (setBitpos i s).voor = s.voor := rfl
@[simp] theorem setBitpos_line : (setBitpos i s).line = s.line := rfl
@[simp] theorem setBitpos_wire : (setBitpos i s).wire = s.wire := rfl
@[simp] theorem setBitpos_draws : (setBitpos i s).draws = s.draws := rfl
@[simp] theorem setBitpos_calls : (setBitpos i s).calls = s.calls := rfl
@[simp] theorem setBitpos_returned : (setBitpos i s).returned = s.returned := rfl
@[simp] theorem setBitpos_refused : (setBitpos i s).refused = s.refused := rfl
end setBitpos

section setPhase
variable (ph : Phase)
@[simp] theorem setPhase_sck : (setPhase ph s).sck = s.sck := rfl
@[simp] theorem setPhase_sdo : (setPhase ph s).sdo = s.sdo := rfl
@[simp] theorem setPhase_txb : (setPhase ph s).txb = s.txb := rfl
@[simp] theorem setPhase_rxb : (setPhase ph s).rxb = s.rxb := rfl
@[simp] theorem setPhase_bitpos : (setPhase ph s).bitpos = s.bitpos := rfl
@[simp] theorem setPhase_phase : (setPhase ph s).phase = ph := rfl
@[simp] theorem setPhase_sq : (setPhase ph s).sq = s.sq := rfl
@[simp] theorem setPhase_idx : (setPhase ph s).idx = s.idx := rfl
@[simp] theorem setPhase_rxh : (setPhase ph s).rxh = s.rxh := rfl
@[simp] theorem setPhase_raw : (setPhase ph s).raw = s.raw := rfl
@[simp] theorem setPhase_bias : (setPhase ph s).bias = s.bias := rfl
@[simp] theorem setPhase_volt : (setPhase ph s).volt = s.volt := rfl
@[simp] theorem setPhase_meas : (setPhase ph s).meas = s.meas := rfl
@[simp] theorem setPhase_unb : (setPhase ph s).unb = s.unb := rfl
@[simp] theorem setPhase_disp : (setPhase ph s).disp = s.disp := rfl
@[simp] theorem setPhase_px10 : (setPhase ph s).px10 = s.px10 := rfl
@[simp] theorem setPhase_vx10 : (setPhase ph s).vx10 = s.vx10 := rfl
@[simp] theorem setPhase_poor : (setPhase ph s).poor = s.poor := rfl
@[simp] theorem setPhase_voor : (setPhase ph s).voor = s.voor := rfl
@[simp] theorem setPhase_line : (setPhase ph s).line = s.line := rfl
@[simp] theorem setPhase_wire : (setPhase ph s).wire = s.wire := rfl
@[simp] theorem setPhase_draws : (setPhase ph s).draws = s.draws := rfl
@[simp] theorem setPhase_calls : (setPhase ph s).calls = s.calls := rfl
@[simp] theorem setPhase_returned : (setPhase ph s).returned = s.returned := rfl
@[simp] theorem setPhase_refused : (setPhase ph s).refused = s.refused := rfl
end setPhase

section lowerSck
@[simp] theorem lowerSck_sck : (lowerSck s).sck = false := rfl
@[simp] theorem lowerSck_sdo : (lowerSck s).sdo = s.sdo := rfl
@[simp] theorem lowerSck_txb : (lowerSck s).txb = s.txb := rfl
@[simp] theorem lowerSck_rxb : (lowerSck s).rxb = s.rxb := rfl
@[simp] theorem lowerSck_bitpos : (lowerSck s).bitpos = s.bitpos := rfl
@[simp] theorem lowerSck_phase : (lowerSck s).phase = s.phase := rfl
@[simp] theorem lowerSck_sq : (lowerSck s).sq = s.sq := rfl
@[simp] theorem lowerSck_idx : (lowerSck s).idx = s.idx := rfl
@[simp] theorem lowerSck_rxh : (lowerSck s).rxh = s.rxh := rfl
@[simp] theorem lowerSck_raw : (lowerSck s).raw = s.raw := rfl
@[simp] theorem lowerSck_bias : (lowerSck s).bias = s.bias := rfl
@[simp] theorem lowerSck_volt : (lowerSck s).volt = s.volt := rfl
@[simp] theorem lowerSck_meas : (lowerSck s).meas = s.meas := rfl
@[simp] theorem lowerSck_unb : (lowerSck s).unb = s.unb := rfl
@[simp] theorem lowerSck_disp : (lowerSck s).disp = s.disp := rfl
@[simp] theorem lowerSck_px10 : (lowerSck s).px10 = s.px10 := rfl
@[simp] theorem lowerSck_vx10 : (lowerSck s).vx10 = s.vx10 := rfl
@[simp] theorem lowerSck_poor : (lowerSck s).poor = s.poor := rfl
@[simp] theorem lowerSck_voor : (lowerSck s).voor = s.voor := rfl
@[simp] theorem lowerSck_line : (lowerSck s).line = s.line := rfl
@[simp] theorem lowerSck_wire : (lowerSck s).wire = s.wire ++ [.lo] := rfl
@[simp] theorem lowerSck_draws : (lowerSck s).draws = s.draws := rfl
@[simp] theorem lowerSck_calls : (lowerSck s).calls = s.calls := rfl
@[simp] theorem lowerSck_returned : (lowerSck s).returned = s.returned := rfl
@[simp] theorem lowerSck_refused : (lowerSck s).refused = s.refused := rfl
end lowerSck

section driveSdo
variable (b : Bool)
@[simp] theorem driveSdo_sck : (driveSdo b s).sck = s.sck := rfl
@[simp] theorem driveSdo_sdo : (driveSdo b s).sdo = b := rfl
@[simp] theorem driveSdo_txb : (driveSdo b s).txb = s.txb := rfl
@[simp] theorem driveSdo_rxb : (driveSdo b s).rxb = s.rxb := rfl
@[simp] theorem driveSdo_bitpos : (driveSdo b s).bitpos = s.bitpos := rfl
@[simp] theorem driveSdo_phase : (driveSdo b s).phase = s.phase := rfl
@[simp] theorem driveSdo_sq : (driveSdo b s).sq = s.sq := rfl
@[simp] theorem driveSdo_idx : (driveSdo b s).idx = s.idx := rfl
@[simp] theorem driveSdo_rxh : (driveSdo b s).rxh = s.rxh := rfl
@[simp] theorem driveSdo_raw : (driveSdo b s).raw = s.raw := rfl
@[simp] theorem driveSdo_bias : (driveSdo b s).bias = s.bias := rfl
@[simp] theorem driveSdo_volt : (driveSdo b s).volt = s.volt := rfl
@[simp] theorem driveSdo_meas : (driveSdo b s).meas = s.meas := rfl
@[simp] theorem driveSdo_unb : (driveSdo b s).unb = s.unb := rfl
@[simp] theorem driveSdo_disp : (driveSdo b s).disp = s.disp := rfl
@[simp] theorem driveSdo_px10 : (driveSdo b s).px10 = s.px10 := rfl
@[simp] theorem driveSdo_vx10 : (driveSdo b s).vx10 = s.vx10 := rfl
@[simp] theorem driveSdo_poor : (driveSdo b s).poor = s.poor := rfl
@[simp] theorem driveSdo_voor : (driveSdo b s).voor = s.voor := rfl
@[simp] theorem driveSdo_line : (driveSdo b s).line = s.line := rfl
@[simp] theorem driveSdo_wire : (driveSdo b s).wire = s.wire ++ [.dr b] := rfl
@[simp] theorem driveSdo_draws : (driveSdo b s).draws = s.draws := rfl
@[simp] theorem driveSdo_calls : (driveSdo b s).calls = s.calls := rfl
@[simp] theorem driveSdo_returned : (driveSdo b s).returned = s.returned := rfl
@[simp] theorem driveSdo_refused : (driveSdo b s).refused = s.refused := rfl
end driveSdo

section raiseSck
@[simp] theorem raiseSck_sck : (raiseSck s).sck = true := rfl
@[simp] theorem raiseSck_sdo : (raiseSck s).sdo = s.sdo := rfl
@[simp] theorem raiseSck_txb : (raiseSck s).txb = s.txb := rfl
@[simp] theorem raiseSck_rxb : (raiseSck s).rxb = s.rxb := rfl
@[simp] theorem raiseSck_bitpos : (raiseSck s).bitpos = s.bitpos := rfl
@[simp] theorem raiseSck_phase : (raiseSck s).phase = s.phase := rfl
@[simp] theorem raiseSck_sq : (raiseSck s).sq = s.sq := rfl
@[simp] theorem raiseSck_idx : (raiseSck s).idx = s.idx := rfl
@[simp] theorem raiseSck_rxh : (raiseSck s).rxh = s.rxh := rfl
@[simp] theorem raiseSck_raw : (raiseSck s).raw = s.raw := rfl
@[simp] theorem raiseSck_bias : (raiseSck s).bias = s.bias := rfl
@[simp] theorem raiseSck_volt : (raiseSck s).volt = s.volt := rfl
@[simp] theorem raiseSck_meas : (raiseSck s).meas = s.meas := rfl
@[simp] theorem raiseSck_unb : (raiseSck s).unb = s.unb := rfl
@[simp] theorem raiseSck_disp : (raiseSck s).disp = s.disp := rfl
@[simp] theorem raiseSck_px10 : (raiseSck s).px10 = s.px10 := rfl
@[simp] theorem raiseSck_vx10 : (raiseSck s).vx10 = s.vx10 := rfl
@[simp] theorem raiseSck_poor : (raiseSck s).poor = s.poor := rfl
@[simp] theorem raiseSck_voor : (raiseSck s).voor = s.voor := rfl
@[simp] theorem raiseSck_line : (raiseSck s).line = s.line := rfl
@[simp] theorem raiseSck_wire : (raiseSck s).wire = s.wire ++ [.hi] := rfl
@[simp] theorem raiseSck_draws : (raiseSck s).draws = s.draws := rfl
@[simp] theorem raiseSck_calls : (raiseSck s).calls = s.calls := rfl
@[simp] theorem raiseSck_returned : (raiseSck s).returned = s.returned := rfl
@[simp] theorem raiseSck_refused : (raiseSck s).refused = s.refused := rfl
end raiseSck

section waitHalf
@[simp] theorem waitHalf_sck : (waitHalf s).sck = s.sck := rfl
@[simp] theorem waitHalf_sdo : (waitHalf s).sdo = s.sdo := rfl
@[simp] theorem waitHalf_txb : (waitHalf s).txb = s.txb := rfl
@[simp] theorem waitHalf_rxb : (waitHalf s).rxb = s.rxb := rfl
@[simp] theorem waitHalf_bitpos : (waitHalf s).bitpos = s.bitpos := rfl
@[simp] theorem waitHalf_phase : (waitHalf s).phase = s.phase := rfl
@[simp] theorem waitHalf_sq : (waitHalf s).sq = s.sq := rfl
@[simp] theorem waitHalf_idx : (waitHalf s).idx = s.idx := rfl
@[simp] theorem waitHalf_rxh : (waitHalf s).rxh = s.rxh := rfl
@[simp] theorem waitHalf_raw : (waitHalf s).raw = s.raw := rfl
@[simp] theorem waitHalf_bias : (waitHalf s).bias = s.bias := rfl
@[simp] theorem waitHalf_volt : (waitHalf s).volt = s.volt := rfl
@[simp] theorem waitHalf_meas : (waitHalf s).meas = s.meas := rfl
@[simp] theorem waitHalf_unb : (waitHalf s).unb = s.unb := rfl
@[simp] theorem waitHalf_disp : (waitHalf s).disp = s.disp := rfl
@[simp] theorem waitHalf_px10 : (waitHalf s).px10 = s.px10 := rfl
@[simp] theorem waitHalf_vx10 : (waitHalf s).vx10 = s.vx10 := rfl
@[simp] theorem waitHalf_poor : (waitHalf s).poor = s.poor := rfl
@[simp] theorem waitHalf_voor : (waitHalf s).voor = s.voor := rfl
@[simp] theorem waitHalf_line : (waitHalf s).line = s.line := rfl
@[simp] theorem waitHalf_wire : (waitHalf s).wire = s.wire ++ [.wt] := rfl
@[simp] theorem waitHalf_draws : (waitHalf s).draws = s.draws := rfl
@[simp] theorem waitHalf_calls : (waitHalf s).calls = s.calls := rfl
@[simp] theorem waitHalf_returned : (waitHalf s).returned = s.returned := rfl
@[simp] theorem waitHalf_refused : (waitHalf s).refused = s.refused := rfl
end waitHalf

section sampleSdi
variable (p : Peer)
@[simp] theorem sampleSdi_sck : (sampleSdi p s).sck = s.sck := rfl
@[simp] theorem sampleSdi_sdo : (sampleSdi p s).sdo = s.sdo := rfl
@[simp] theorem sampleSdi_txb : (sampleSdi p s).txb = s.txb := rfl
@[simp] theorem sampleSdi_rxb : (sampleSdi p s).rxb = s.rxb.set s.bitpos.toNat (some (p s.draws s.wire)) s.bitpos.isLt := rfl
@[simp] theorem sampleSdi_bitpos : (sampleSdi p s).bitpos = s.bitpos := rfl
@[simp] theorem sampleSdi_phase : (sampleSdi p s).phase = s.phase := rfl
@[simp] theorem sampleSdi_sq : (sampleSdi p s).sq = s.sq := rfl
@[simp] theorem sampleSdi_idx : (sampleSdi p s).idx = s.idx := rfl
@[simp] theorem sampleSdi_rxh : (sampleSdi p s).rxh = s.rxh := rfl
@[simp] theorem sampleSdi_raw : (sampleSdi p s).raw = s.raw := rfl
@[simp] theorem sampleSdi_bias : (sampleSdi p s).bias = s.bias := rfl
@[simp] theorem sampleSdi_volt : (sampleSdi p s).volt = s.volt := rfl
@[simp] theorem sampleSdi_meas : (sampleSdi p s).meas = s.meas := rfl
@[simp] theorem sampleSdi_unb : (sampleSdi p s).unb = s.unb := rfl
@[simp] theorem sampleSdi_disp : (sampleSdi p s).disp = s.disp := rfl
@[simp] theorem sampleSdi_px10 : (sampleSdi p s).px10 = s.px10 := rfl
@[simp] theorem sampleSdi_vx10 : (sampleSdi p s).vx10 = s.vx10 := rfl
@[simp] theorem sampleSdi_poor : (sampleSdi p s).poor = s.poor := rfl
@[simp] theorem sampleSdi_voor : (sampleSdi p s).voor = s.voor := rfl
@[simp] theorem sampleSdi_line : (sampleSdi p s).line = s.line := rfl
@[simp] theorem sampleSdi_wire : (sampleSdi p s).wire = s.wire ++ [.sm (p s.draws s.wire)] := rfl
@[simp] theorem sampleSdi_draws : (sampleSdi p s).draws = s.draws + 1 := rfl
@[simp] theorem sampleSdi_calls : (sampleSdi p s).calls = s.calls := rfl
@[simp] theorem sampleSdi_returned : (sampleSdi p s).returned = s.returned := rfl
@[simp] theorem sampleSdi_refused : (sampleSdi p s).refused = s.refused := rfl
end sampleSdi

section returnToHost
variable (r : Returned)
@[simp] theorem returnToHost_sck : (returnToHost r s).sck = s.sck := rfl
@[simp] theorem returnToHost_sdo : (returnToHost r s).sdo = s.sdo := rfl
@[simp] theorem returnToHost_txb : (returnToHost r s).txb = s.txb := rfl
@[simp] theorem returnToHost_rxb : (returnToHost r s).rxb = s.rxb := rfl
@[simp] theorem returnToHost_bitpos : (returnToHost r s).bitpos = s.bitpos := rfl
@[simp] theorem returnToHost_phase : (returnToHost r s).phase = s.phase := rfl
@[simp] theorem returnToHost_sq : (returnToHost r s).sq = s.sq := rfl
@[simp] theorem returnToHost_idx : (returnToHost r s).idx = s.idx := rfl
@[simp] theorem returnToHost_rxh : (returnToHost r s).rxh = s.rxh := rfl
@[simp] theorem returnToHost_raw : (returnToHost r s).raw = s.raw := rfl
@[simp] theorem returnToHost_bias : (returnToHost r s).bias = s.bias := rfl
@[simp] theorem returnToHost_volt : (returnToHost r s).volt = s.volt := rfl
@[simp] theorem returnToHost_meas : (returnToHost r s).meas = s.meas := rfl
@[simp] theorem returnToHost_unb : (returnToHost r s).unb = s.unb := rfl
@[simp] theorem returnToHost_disp : (returnToHost r s).disp = s.disp := rfl
@[simp] theorem returnToHost_px10 : (returnToHost r s).px10 = s.px10 := rfl
@[simp] theorem returnToHost_vx10 : (returnToHost r s).vx10 = s.vx10 := rfl
@[simp] theorem returnToHost_poor : (returnToHost r s).poor = s.poor := rfl
@[simp] theorem returnToHost_voor : (returnToHost r s).voor = s.voor := rfl
@[simp] theorem returnToHost_line : (returnToHost r s).line = s.line := rfl
@[simp] theorem returnToHost_wire : (returnToHost r s).wire = s.wire := rfl
@[simp] theorem returnToHost_draws : (returnToHost r s).draws = s.draws := rfl
@[simp] theorem returnToHost_calls : (returnToHost r s).calls = s.calls := rfl
@[simp] theorem returnToHost_returned : (returnToHost r s).returned = s.returned ++ [r] := rfl
@[simp] theorem returnToHost_refused : (returnToHost r s).refused = s.refused := rfl
end returnToHost

section markRefused
variable (r : Reg)
@[simp] theorem markRefused_sck : (markRefused r s).sck = s.sck := rfl
@[simp] theorem markRefused_sdo : (markRefused r s).sdo = s.sdo := rfl
@[simp] theorem markRefused_txb : (markRefused r s).txb = s.txb := rfl
@[simp] theorem markRefused_rxb : (markRefused r s).rxb = s.rxb := rfl
@[simp] theorem markRefused_bitpos : (markRefused r s).bitpos = s.bitpos := rfl
@[simp] theorem markRefused_phase : (markRefused r s).phase = s.phase := rfl
@[simp] theorem markRefused_sq : (markRefused r s).sq = s.sq := rfl
@[simp] theorem markRefused_idx : (markRefused r s).idx = s.idx := rfl
@[simp] theorem markRefused_rxh : (markRefused r s).rxh = s.rxh := rfl
@[simp] theorem markRefused_raw : (markRefused r s).raw = s.raw := rfl
@[simp] theorem markRefused_bias : (markRefused r s).bias = s.bias := rfl
@[simp] theorem markRefused_volt : (markRefused r s).volt = s.volt := rfl
@[simp] theorem markRefused_meas : (markRefused r s).meas = s.meas := rfl
@[simp] theorem markRefused_unb : (markRefused r s).unb = s.unb := rfl
@[simp] theorem markRefused_disp : (markRefused r s).disp = s.disp := rfl
@[simp] theorem markRefused_px10 : (markRefused r s).px10 = s.px10 := rfl
@[simp] theorem markRefused_vx10 : (markRefused r s).vx10 = s.vx10 := rfl
@[simp] theorem markRefused_poor : (markRefused r s).poor = s.poor := rfl
@[simp] theorem markRefused_voor : (markRefused r s).voor = s.voor := rfl
@[simp] theorem markRefused_line : (markRefused r s).line = s.line := rfl
@[simp] theorem markRefused_wire : (markRefused r s).wire = s.wire := rfl
@[simp] theorem markRefused_draws : (markRefused r s).draws = s.draws := rfl
@[simp] theorem markRefused_calls : (markRefused r s).calls = s.calls := rfl
@[simp] theorem markRefused_returned : (markRefused r s).returned = s.returned := rfl
@[simp] theorem markRefused_refused : (markRefused r s).refused = s.refused ++ [r] := rfl
end markRefused

section seqStart
variable (q : SeqId)
@[simp] theorem seqStart_sck : (seqStart q s).sck = s.sck := rfl
@[simp] theorem seqStart_sdo : (seqStart q s).sdo = s.sdo := rfl
@[simp] theorem seqStart_txb : (seqStart q s).txb = s.txb := rfl
@[simp] theorem seqStart_rxb : (seqStart q s).rxb = s.rxb := rfl
@[simp] theorem seqStart_bitpos : (seqStart q s).bitpos = s.bitpos := rfl
@[simp] theorem seqStart_phase : (seqStart q s).phase = s.phase := rfl
@[simp] theorem seqStart_sq : (seqStart q s).sq = q := rfl
@[simp] theorem seqStart_idx : (seqStart q s).idx = 0 := rfl
@[simp] theorem seqStart_rxh : (seqStart q s).rxh = s.rxh := rfl
@[simp] theorem seqStart_raw : (seqStart q s).raw = s.raw := rfl
@[simp] theorem seqStart_bias : (seqStart q s).bias = s.bias := rfl
@[simp] theorem seqStart_volt : (seqStart q s).volt = s.volt := rfl
@[simp] theorem seqStart_meas : (seqStart q s).meas = s.meas := rfl
@[simp] theorem seqStart_unb : (seqStart q s).unb = s.unb := rfl
@[simp] theorem seqStart_disp : (seqStart q s).disp = s.disp := rfl
@[simp] theorem seqStart_px10 : (seqStart q s).px10 = s.px10 := rfl
@[simp] theorem seqStart_vx10 : (seqStart q s).vx10 = s.vx10 := rfl
@[simp] theorem seqStart_poor : (seqStart q s).poor = s.poor := rfl
@[simp] theorem seqStart_voor : (seqStart q s).voor = s.voor := rfl
@[simp] theorem seqStart_line : (seqStart q s).line = s.line := rfl
@[simp] theorem seqStart_wire : (seqStart q s).wire = s.wire := rfl
@[simp] theorem seqStart_draws : (seqStart q s).draws = s.draws := rfl
@[simp] theorem seqStart_calls : (seqStart q s).calls = s.calls := rfl
@[simp] theorem seqStart_returned : (seqStart q s).returned = s.returned := rfl
@[simp] theorem seqStart_refused : (seqStart q s).refused = s.refused := rfl
end seqStart

section seqStop
@[simp] theorem seqStop_sck : (seqStop s).sck = s.sck := rfl
@[simp] theorem seqStop_sdo : (seqStop s).sdo = s.sdo := rfl
@[simp] theorem seqStop_txb : (seqStop s).txb = s.txb := rfl
@[simp] theorem seqStop_rxb : (seqStop s).rxb = s.rxb := rfl
@[simp] theorem seqStop_bitpos : (seqStop s).bitpos = s.bitpos := rfl
@[simp] theorem seqStop_phase : (seqStop s).phase = s.phase := rfl
@[simp] theorem seqStop_sq : (seqStop s).sq = .none := rfl
@[simp] theorem seqStop_idx : (seqStop s).idx = 0 := rfl
@[simp] theorem seqStop_rxh : (seqStop s).rxh = s.rxh := rfl
@[simp] theorem seqStop_raw : (seqStop s).raw = s.raw := rfl
@[simp] theorem seqStop_bias : (seqStop s).bias = s.bias := rfl
@[simp] theorem seqStop_volt : (seqStop s).volt = s.volt := rfl
@[simp] theorem seqStop_meas : (seqStop s).meas = s.meas := rfl
@[simp] theorem seqStop_unb : (seqStop s).unb = s.unb := rfl
@[simp] theorem seqStop_disp : (seqStop s).disp = s.disp := rfl
@[simp] theorem seqStop_px10 : (seqStop s).px10 = s.px10 := rfl
@[simp] theorem seqStop_vx10 : (seqStop s).vx10 = s.vx10 := rfl
@[simp] theorem seqStop_poor : (seqStop s).poor = s.poor := rfl
@[simp] theorem seqStop_voor : (seqStop s).voor = s.voor := rfl
@[simp] theorem seqStop_line : (seqStop s).line = s.line := rfl
@[simp] theorem seqStop_wire : (seqStop s).wire = s.wire := rfl
@[simp] theorem seqStop_draws : (seqStop s).draws = s.draws := rfl
@[simp] theorem seqStop_calls : (seqStop s).calls = s.calls := rfl
@[simp] theorem seqStop_returned : (seqStop s).returned = s.returned := rfl
@[simp] theorem seqStop_refused : (seqStop s).refused = s.refused := rfl
end seqStop

section setFlags
variable (poor voor : Bool)
@[simp] theorem setFlags_sck : (setFlags poor voor s).sck = s.sck := rfl
@[simp] theorem setFlags_sdo : (setFlags poor voor s).sdo = s.sdo := rfl
@[simp] theorem setFlags_txb : (setFlags poor voor s).txb = s.txb := rfl
@[simp] theorem setFlags_rxb : (setFlags poor voor s).rxb = s.rxb := rfl
@[simp] theorem setFlags_bitpos : (setFlags poor voor s).bitpos = s.bitpos := rfl
@[simp] theorem setFlags_phase : (setFlags poor voor s).phase = s.phase := rfl
@[simp] theorem setFlags_sq : (setFlags poor voor s).sq = s.sq := rfl
@[simp] theorem setFlags_idx : (setFlags poor voor s).idx = s.idx := rfl
@[simp] theorem setFlags_rxh : (setFlags poor voor s).rxh = s.rxh := rfl
@[simp] theorem setFlags_raw : (setFlags poor voor s).raw = s.raw := rfl
@[simp] theorem setFlags_bias : (setFlags poor voor s).bias = s.bias := rfl
@[simp] theorem setFlags_volt : (setFlags poor voor s).volt = s.volt := rfl
@[simp] theorem setFlags_meas : (setFlags poor voor s).meas = s.meas := rfl
@[simp] theorem setFlags_unb : (setFlags poor voor s).unb = s.unb := rfl
@[simp] theorem setFlags_disp : (setFlags poor voor s).disp = s.disp := rfl
@[simp] theorem setFlags_px10 : (setFlags poor voor s).px10 = s.px10 := rfl
@[simp] theorem setFlags_vx10 : (setFlags poor voor s).vx10 = s.vx10 := rfl
@[simp] theorem setFlags_poor : (setFlags poor voor s).poor = poor := rfl
@[simp] theorem setFlags_voor : (setFlags poor voor s).voor = voor := rfl
@[simp] theorem setFlags_line : (setFlags poor voor s).line = s.line := rfl
@[simp] theorem setFlags_wire : (setFlags poor voor s).wire = s.wire := rfl
@[simp] theorem setFlags_draws : (setFlags poor voor s).draws = s.draws := rfl
@[simp] theorem setFlags_calls : (setFlags poor voor s).calls = s.calls := rfl
@[simp] theorem setFlags_returned : (setFlags poor voor s).returned = s.returned := rfl
@[simp] theorem setFlags_refused : (setFlags poor voor s).refused = s.refused := rfl
end setFlags

end Sys2Proof.Machine
end

