-- ==== Sys2Proof/Laws/Transceiver.lean ====
section
/-! SUPPORT. What one byte exchange does, said once: every bit of `xferBit`, the whole of `xferRun`. Proofs cite these
and never unfold the loop. -/

namespace Sys2Proof.Machine

/-- One bit: what it changes, with the sampled bit the environment's answer after the first four events. -/
theorem xferBit_eq (p : Peer) (out : Byte) (i : BitVec 3) (s : State) :
    xferBit p out i s =
      { s with
        sck := true
        sdo := out.getLsbD i.toNat
        rxb := s.rxb.set i.toNat
          (some (p s.draws (s.wire ++ [.lo, .dr (out.getLsbD i.toNat), .hi, .wt]))) i.isLt
        bitpos := i
        wire := s.wire ++ bitEvents (out.getLsbD i.toNat)
          (p s.draws (s.wire ++ [.lo, .dr (out.getLsbD i.toNat), .hi, .wt]))
        draws := s.draws + 1 } := by
  simp [xferBit, sampleSdi, waitHalf, raiseSck, driveSdo, lowerSck, setBitpos, bitEvents]

/-- One bit, with the sampled bit left open. -/
theorem xferBit_spec (p : Peer) (out : Byte) (i : BitVec 3) (s : State) :
    ∃ b, xferBit p out i s =
      { s with
        sck := true
        sdo := out.getLsbD i.toNat
        rxb := s.rxb.set i.toNat (some b) i.isLt
        bitpos := i
        wire := s.wire ++ bitEvents (out.getLsbD i.toNat) b
        draws := s.draws + 1 } :=
  ⟨_, xferBit_eq p out i s⟩

/-- The whole byte: everything `xferRun` can do. -/
theorem xferRun_spec (p : Peer) (out : Byte) (s : State) :
    ∃ b7 b6 b5 b4 b3 b2 b1 b0 : Bool, xferRun p out s =
      { s with
        sck := true
        sdo := out.getLsbD 0
        txb := some out
        rxb := #v[some b0, some b1, some b2, some b3, some b4, some b5, some b6, some b7]
        bitpos := 0
        phase := .idle
        wire := s.wire ++ byteEvents out b7 b6 b5 b4 b3 b2 b1 b0
        draws := s.draws + 8 } := by
  unfold xferRun bitPositions
  simp only [List.foldl_cons, List.foldl_nil]
  obtain ⟨b7, h7⟩ := xferBit_spec p out 7 (setTxb out s)
  obtain ⟨b6, h6⟩ := xferBit_spec p out 6 _
  obtain ⟨b5, h5⟩ := xferBit_spec p out 5 _
  obtain ⟨b4, h4⟩ := xferBit_spec p out 4 _
  obtain ⟨b3, h3⟩ := xferBit_spec p out 3 _
  obtain ⟨b2, h2⟩ := xferBit_spec p out 2 _
  obtain ⟨b1, h1⟩ := xferBit_spec p out 1 _
  obtain ⟨b0, h0⟩ := xferBit_spec p out 0 _
  refine ⟨b7, b6, b5, b4, b3, b2, b1, b0, ?_⟩
  rw [h7, h6, h5, h4, h3, h2, h1, h0]
  simp only [byteEvents, setPhase, setTxb, List.append_assoc, State.mk.injEq, true_and, and_true]
  refine ⟨rfl, ?_, rfl⟩
  ext i hi
  interval_cases i <;> simp

/-- A whole RXB reads as the byte of its bits. -/
@[simp] theorem rxbByte_full (b0 b1 b2 b3 b4 b5 b6 b7 : Bool) :
    rxbByte #v[some b0, some b1, some b2, some b3, some b4, some b5, some b6, some b7]
      = some (byteOfBits b7 b6 b5 b4 b3 b2 b1 b0) := rfl

/-- A whole RXB is handed to the HOST. -/
theorem returnRxb_some {s : State} {b : Byte} (h : rxbByte s.rxb = some b) :
    returnRxb s = .next (returnToHost (.byte b) s) := by
  simp [returnRxb, h]

@[simp] theorem byteEvents_length (out : Byte) (b7 b6 b5 b4 b3 b2 b1 b0 : Bool) :
    (byteEvents out b7 b6 b5 b4 b3 b2 b1 b0).length = 40 := rfl

end Sys2Proof.Machine
end

