-- ==== Sys2Proof/Laws/Wire.lean ====
section
/-! SUPPORT. What a wire trace made of whole bytes reads as. -/

namespace Sys2Proof.Machine

/-- `ev` is the trace of the bytes `outs` going out while the bytes `gots` come in. -/
structure Transfers (outs gots : List Byte) (ev : List WireEvent) : Prop where
  sent : ∀ level, bytesSent level ev = outs
  received : bytesReceived ev = gots
  length : ev.length = 40 * outs.length
  rises : ev.count .hi = 8 * outs.length
  waits : ev.count .wt = 8 * outs.length
  cycles : ∃ cs, bitCycles ev = some cs ∧ cs.length = 8 * outs.length

theorem byteOfBits_getLsbD (b : Byte) :
    byteOfBits (b.getLsbD 7) (b.getLsbD 6) (b.getLsbD 5) (b.getLsbD 4) (b.getLsbD 3) (b.getLsbD 2) (b.getLsbD 1)
      (b.getLsbD 0) = b := by
  revert b
  decide +kernel

theorem Transfers.nil : Transfers [] [] [] := ⟨fun _ => rfl, rfl, rfl, rfl, rfl, [], rfl, rfl⟩

/-- One more byte at the front of a trace. -/
theorem Transfers.cons {outs gots : List Byte} {ev : List WireEvent} (h : Transfers outs gots ev) (out : Byte)
    (b7 b6 b5 b4 b3 b2 b1 b0 : Bool) :
    Transfers (out :: outs) (byteOfBits b7 b6 b5 b4 b3 b2 b1 b0 :: gots)
      (byteEvents out b7 b6 b5 b4 b3 b2 b1 b0 ++ ev) where
  sent level := by
    have hb : bytesSent level (byteEvents out b7 b6 b5 b4 b3 b2 b1 b0 ++ ev)
        = byteOfBits (out.getLsbD 7) (out.getLsbD 6) (out.getLsbD 5) (out.getLsbD 4) (out.getLsbD 3) (out.getLsbD 2)
            (out.getLsbD 1) (out.getLsbD 0) :: bytesSent (out.getLsbD 0) ev := rfl
    rw [hb, byteOfBits_getLsbD, h.sent]
  received := congrArg (byteOfBits b7 b6 b5 b4 b3 b2 b1 b0 :: ·) h.received
  length := by simp [h.length]; omega
  rises := by simp [byteEvents, bitEvents, h.rises]; omega
  waits := by simp [byteEvents, bitEvents, h.waits]; omega
  cycles := by
    obtain ⟨cs, hc, hl⟩ := h.cycles
    simp [byteEvents, bitEvents, bitCycles, hc, hl]
    omega

/-- The trace of one byte. -/
theorem Transfers.one (out : Byte) (b7 b6 b5 b4 b3 b2 b1 b0 : Bool) :
    Transfers [out] [byteOfBits b7 b6 b5 b4 b3 b2 b1 b0] (byteEvents out b7 b6 b5 b4 b3 b2 b1 b0) := by
  simpa using Transfers.nil.cons out b7 b6 b5 b4 b3 b2 b1 b0

/-- Traces one after the other. -/
theorem Transfers.append {out got : Byte} {outs gots : List Byte} {ev ev' : List WireEvent}
    (h : ∃ b7 b6 b5 b4 b3 b2 b1 b0, ev = byteEvents out b7 b6 b5 b4 b3 b2 b1 b0
      ∧ got = byteOfBits b7 b6 b5 b4 b3 b2 b1 b0) (h' : Transfers outs gots ev') :
    Transfers (out :: outs) (got :: gots) (ev ++ ev') := by
  obtain ⟨b7, b6, b5, b4, b3, b2, b1, b0, rfl, rfl⟩ := h
  exact h'.cons out b7 b6 b5 b4 b3 b2 b1 b0

/-- Whole cycles followed by whole cycles are whole cycles. -/
theorem bitCycles_append {es fs : List WireEvent} {cs ds : List (Bool × Bool)} (h : bitCycles es = some cs)
    (h' : bitCycles fs = some ds) : bitCycles (es ++ fs) = some (cs ++ ds) := by
  induction es using bitCycles.induct generalizing cs with
  | case1 => simp [bitCycles] at h; subst h; simpa using h'
  | case2 o i es ih =>
    simp only [bitCycles, Option.map_eq_some_iff] at h
    obtain ⟨c, hc, rfl⟩ := h
    simp [bitCycles, ih hc]
  | case3 es h1 h2 =>
    unfold bitCycles at h
    split at h
    · exact absurd rfl h1
    · exact absurd rfl (h2 _ _ _)
    · cases h

end Sys2Proof.Machine
end

