-- ==== Sys2Proof/Laws/Sequencer.lean ====
section
/-! SUPPORT. What SEQ's shared operations do, said once: one byte, the whole of `INIT_ROM`, the whole of `READ_ROM`. -/

namespace Sys2Proof.Machine

/-- The build's `INIT_ROM` (spec/10_state.md rule R28). -/
theorem initRom_build : build.initRom = [0xFF, 0xFF, 0xFF, 0xFF, 0x20, 0x04, 0x10, 0x4C] := rfl

/-- The build's `READ_ROM` (spec/10_state.md rule R28). -/
theorem readRom_build : build.readRom = [0x38, 0xFF, 0xFF] := rfl

/-- `INIT_ROM` of any build the model accepts: eight bytes (spec/10_state.md rule R28). -/
theorem initRom_wf {c : Cfg} (h : c.wf = true) :
    c.initRom = [c.bReset, c.bReset, c.bReset, c.bReset, c.bSelClk, c.bClkCfg, c.bSelSetup, c.bSetupCfg] := by
  simp [Cfg.wf] at h
  simp [Cfg.initRom, h]

/-- `READ_ROM` of any build the model accepts: three bytes (spec/10_state.md rule R28). -/
theorem readRom_wf {c : Cfg} (h : c.wf = true) : c.readRom = [c.bRdData, c.bFill, c.bFill] := by
  simp [Cfg.wf] at h
  simp [Cfg.readRom, h]

/-- The documented defaults are a build the model accepts. -/
theorem build_wf : build.wf = true := by decide +kernel

/-- INIT sends eight bytes in every build the model accepts. -/
theorem romOf_init_length_wf {c : Cfg} (h : c.wf = true) : (romOf c .init).length = 8 := by
  rw [romOf, initRom_wf h]
  rfl

/-- READ sends three bytes in every build the model accepts. -/
theorem romOf_read_length_wf {c : Cfg} (h : c.wf = true) : (romOf c .read).length = 3 := by
  rw [romOf, readRom_wf h]
  rfl

/-- SEQ runs no table when no sequence runs. -/
@[simp] theorem romOf_none_length (c : Cfg) : (romOf c .none).length = 0 := rfl

/-- INIT sends eight bytes. -/
@[simp] theorem romOf_init_length : (romOf build .init).length = 8 := rfl

/-- READ sends three bytes. -/
@[simp] theorem romOf_read_length : (romOf build .read).length = 3 := rfl

/-- A piece of trace is one byte out and one byte in. -/
def IsByte (out got : Byte) (ev : List WireEvent) : Prop :=
  ∃ b7 b6 b5 b4 b3 b2 b1 b0, ev = byteEvents out b7 b6 b5 b4 b3 b2 b1 b0 ∧ got = byteOfBits b7 b6 b5 b4 b3 b2 b1 b0

/-- Everything `xferRun` can do, with the bits folded into the byte received. -/
theorem xferRun_byte (p : Peer) (out : Byte) (s : State) :
    ∃ got ev rx, IsByte out got ev ∧ rxbByte rx = some got ∧ xferRun p out s =
      { s with
        sck := true
        sdo := out.getLsbD 0
        txb := some out
        rxb := rx
        bitpos := 0
        phase := .idle
        wire := s.wire ++ ev
        draws := s.draws + 8 } := by
  obtain ⟨b7, b6, b5, b4, b3, b2, b1, b0, h⟩ := xferRun_spec p out s
  exact ⟨_, _, _, ⟨b7, b6, b5, b4, b3, b2, b1, b0, rfl, rfl⟩, rfl, h⟩

/-- Everything one byte of a sequence can do. -/
theorem seqSend_spec (c : Cfg) (p : Peer) (out : Byte) (s : State) :
    ∃ got ev rx, IsByte out got ev ∧ rxbByte rx = some got ∧ seqSend c p out s =
      { s with
        sck := true
        sdo := out.getLsbD 0
        txb := some out
        rxb := rx
        bitpos := 0
        phase := .idle
        rxh := if s.idx.toNat < (romOf c s.sq).length ∧ s.sq = .read ∧ s.idx = 1 then some got else s.rxh
        idx := if s.idx.toNat < (romOf c s.sq).length then s.idx + 1 else s.idx
        wire := s.wire ++ ev
        draws := s.draws + 8 } := by
  obtain ⟨got, ev, rx, h1, h2, h3⟩ := xferRun_byte p out s
  refine ⟨got, ev, rx, h1, h2, ?_⟩
  unfold seqSend seqAdvance
  rw [h3]
  by_cases h : s.idx.toNat < (romOf c s.sq).length <;> simp [h, h2]

/-- The eight bytes of INIT, from its start, in every build the model accepts. -/
theorem initTable_wf {c : Cfg} (hc : c.wf = true) (p : Peer) (s : State) :
    ∃ gots last ev rx, gots.length = 7 ∧ rxbByte rx = some last
      ∧ Transfers [c.bReset, c.bReset, c.bReset, c.bReset, c.bSelClk, c.bClkCfg, c.bSelSetup, c.bSetupCfg]
          (gots ++ [last]) ev
      ∧ seqTable c p c.initRom (seqStart .init s) =
        { s with
          sck := true
          sdo := c.bSetupCfg.getLsbD 0
          txb := some c.bSetupCfg
          rxb := rx
          bitpos := 0
          phase := .idle
          sq := .init
          idx := 8
          wire := s.wire ++ ev
          draws := s.draws + 64 } := by
  rw [initRom_wf hc]
  simp only [seqTable, List.foldl_cons, List.foldl_nil]
  obtain ⟨g0, v0, x0, i0, r0, h0⟩ := seqSend_spec c p c.bReset (seqStart .init s)
  obtain ⟨t0, e0⟩ : ∃ t, seqSend c p c.bReset (seqStart .init s) = t := ⟨_, rfl⟩
  rw [e0] at h0 ⊢
  obtain ⟨g1, v1, x1, i1, r1, h1⟩ := seqSend_spec c p c.bReset t0
  obtain ⟨t1, e1⟩ : ∃ t, seqSend c p c.bReset t0 = t := ⟨_, rfl⟩
  rw [e1] at h1 ⊢
  obtain ⟨g2, v2, x2, i2, r2, h2⟩ := seqSend_spec c p c.bReset t1
  obtain ⟨t2, e2⟩ : ∃ t, seqSend c p c.bReset t1 = t := ⟨_, rfl⟩
  rw [e2] at h2 ⊢
  obtain ⟨g3, v3, x3, i3, r3, h3⟩ := seqSend_spec c p c.bReset t2
  obtain ⟨t3, e3⟩ : ∃ t, seqSend c p c.bReset t2 = t := ⟨_, rfl⟩
  rw [e3] at h3 ⊢
  obtain ⟨g4, v4, x4, i4, r4, h4⟩ := seqSend_spec c p c.bSelClk t3
  obtain ⟨t4, e4⟩ : ∃ t, seqSend c p c.bSelClk t3 = t := ⟨_, rfl⟩
  rw [e4] at h4 ⊢
  obtain ⟨g5, v5, x5, i5, r5, h5⟩ := seqSend_spec c p c.bClkCfg t4
  obtain ⟨t5, e5⟩ : ∃ t, seqSend c p c.bClkCfg t4 = t := ⟨_, rfl⟩
  rw [e5] at h5 ⊢
  obtain ⟨g6, v6, x6, i6, r6, h6⟩ := seqSend_spec c p c.bSelSetup t5
  obtain ⟨t6, e6⟩ : ∃ t, seqSend c p c.bSelSetup t5 = t := ⟨_, rfl⟩
  rw [e6] at h6 ⊢
  obtain ⟨g7, v7, x7, i7, r7, h7⟩ := seqSend_spec c p c.bSetupCfg t6
  obtain ⟨t7, e7⟩ : ∃ t, seqSend c p c.bSetupCfg t6 = t := ⟨_, rfl⟩
  rw [e7] at h7 ⊢
  subst h0
  simp [seqStart, romOf_init_length_wf hc] at h1
  subst h1
  simp [romOf_init_length_wf hc] at h2
  subst h2
  simp [romOf_init_length_wf hc] at h3
  subst h3
  simp [romOf_init_length_wf hc] at h4
  subst h4
  simp [romOf_init_length_wf hc] at h5
  subst h5
  simp [romOf_init_length_wf hc] at h6
  subst h6
  simp [romOf_init_length_wf hc] at h7
  subst h7
  refine ⟨[g0, g1, g2, g3, g4, g5, g6], g7, v0 ++ (v1 ++ (v2 ++ (v3 ++ (v4 ++ (v5 ++ (v6 ++ (v7 ++ []))))))), x7, rfl, r7,
    .append i0 (.append i1 (.append i2 (.append i3 (.append i4 (.append i5 (.append i6 (.append i7 .nil))))))), ?_⟩
  simp

/-- The three bytes of READ, from its start, in every build the model accepts. -/
theorem readTable_wf {c : Cfg} (hc : c.wf = true) (p : Peer) (s : State) :
    ∃ g h l ev rx, rxbByte rx = some l ∧ Transfers [c.bRdData, c.bFill, c.bFill] [g, h, l] ev
      ∧ seqTable c p c.readRom (seqStart .read s) =
        { s with
          sck := true
          sdo := c.bFill.getLsbD 0
          txb := some c.bFill
          rxb := rx
          bitpos := 0
          phase := .idle
          sq := .read
          idx := 3
          rxh := some h
          wire := s.wire ++ ev
          draws := s.draws + 24 } := by
  rw [readRom_wf hc]
  simp only [seqTable, List.foldl_cons, List.foldl_nil]
  obtain ⟨g0, v0, x0, i0, r0, h0⟩ := seqSend_spec c p c.bRdData (seqStart .read s)
  obtain ⟨t0, e0⟩ : ∃ t, seqSend c p c.bRdData (seqStart .read s) = t := ⟨_, rfl⟩
  rw [e0] at h0 ⊢
  obtain ⟨g1, v1, x1, i1, r1, h1⟩ := seqSend_spec c p c.bFill t0
  obtain ⟨t1, e1⟩ : ∃ t, seqSend c p c.bFill t0 = t := ⟨_, rfl⟩
  rw [e1] at h1 ⊢
  obtain ⟨g2, v2, x2, i2, r2, h2⟩ := seqSend_spec c p c.bFill t1
  obtain ⟨t2, e2⟩ : ∃ t, seqSend c p c.bFill t1 = t := ⟨_, rfl⟩
  rw [e2] at h2 ⊢
  subst h0
  simp [seqStart, romOf_read_length_wf hc] at h1
  subst h1
  simp [romOf_read_length_wf hc] at h2
  subst h2
  refine ⟨g0, g1, g2, v0 ++ (v1 ++ (v2 ++ [])), x2, r2, .append i0 (.append i1 (.append i2 .nil)), ?_⟩
  simp

/-- The eight bytes of INIT, from its start. -/
theorem initTable_spec (p : Peer) (s : State) :
    ∃ gots last ev rx, gots.length = 7 ∧ rxbByte rx = some last
      ∧ Transfers [0xFF, 0xFF, 0xFF, 0xFF, 0x20, 0x04, 0x10, 0x4C] (gots ++ [last]) ev
      ∧ seqTable build p build.initRom (seqStart .init s) =
        { s with
          sck := true
          sdo := false
          txb := some 0x4C
          rxb := rx
          bitpos := 0
          phase := .idle
          sq := .init
          idx := 8
          wire := s.wire ++ ev
          draws := s.draws + 64 } :=
  initTable_wf build_wf p s

/-- The three bytes of READ, from its start. -/
theorem readTable_spec (p : Peer) (s : State) :
    ∃ c h l ev rx, rxbByte rx = some l ∧ Transfers [0x38, 0xFF, 0xFF] [c, h, l] ev
      ∧ seqTable build p build.readRom (seqStart .read s) =
        { s with
          sck := true
          sdo := true
          txb := some 0xFF
          rxb := rx
          bitpos := 0
          phase := .idle
          sq := .read
          idx := 3
          rxh := some h
          wire := s.wire ++ ev
          draws := s.draws + 24 } :=
  readTable_wf build_wf p s

/-- The end of INIT. -/
theorem seqFinish_init {s : State} (h : s.sq = .init) : seqFinish s = .next (seqStop s) := by
  simp [seqFinish, h]

/-- The end of READ, with both result bytes received. -/
theorem seqFinish_read {s : State} {hi lo : Byte} (h : s.sq = .read) (h' : s.rxh = some hi)
    (h'' : rxbByte s.rxb = some lo) :
    seqFinish s =
      .next { s with
        sq := .none
        idx := 0
        raw := some (rawOf hi lo)
        returned := s.returned ++ [.sample (rawOf hi lo)] } := by
  simp [seqFinish, h, h', h'', returnToHost, seqStop]

end Sys2Proof.Machine
end

