-- ==== Sys2Proof/Laws/Step.lean ====
section
/-! SUPPORT. Everything one step can do, said once for any build, environment and meaning of the instructions. -/

namespace Sys2Proof.Machine

variable {c : Cfg} {p : Peer} {run : Instr → State → Host.Outcome State Fault Refusal} {s : State}

/-- A byte found half exchanged goes on by one micro-step. -/
theorem stepOver_micro (h : s.phase ≠ .idle) : stepOver c p run s = microStep c p s := by
  simp [stepOver, fetch, h]

/-- With nothing running and no call pending nothing happens. -/
theorem stepOver_wait (h : s.phase = .idle) (h' : s.sq = .none) (h'' : s.calls = []) :
    stepOver c p run s = .next s := by
  simp [stepOver, fetch, h, h', fetchCall, h'']

/-- With nothing running the HOST's next call is made; every word decodes. -/
theorem stepOver_call {w : CmdWord} {rest : List CmdWord} (h : s.phase = .idle) (h' : s.sq = .none)
    (h'' : s.calls = w :: rest) : stepOver c p run s = run (decodeCmd w) { s with calls := rest } := by
  simp only [stepOver, fetch, h, h', fetchCall, h'', fetchCode, decodeWith_cmd, if_true]

/-- A running sequence sends the byte at its position. -/
theorem stepOver_byte {b : Byte} {i : Instr} (h : s.phase = .idle) (h' : s.sq ≠ .none)
    (h'' : (romOf c s.sq)[s.idx.toNat]? = some b) (hd : decodeWire c s.sq s.idx.toNat b = .ok i) :
    stepOver c p run s = run i s := by
  simp only [stepOver, fetch, h, if_neg h', fetchSeq, h'', fetchCode, decodeWith_wire, hd, if_true]

/-- A running sequence past its last byte ends. -/
theorem stepOver_end (h : s.phase = .idle) (h' : s.sq ≠ .none) (h'' : (romOf c s.sq)[s.idx.toNat]? = none) :
    stepOver c p run s = seqFinish s := by
  simp [stepOver, fetch, h, h', fetchSeq, h'']

end Sys2Proof.Machine
end

