-- ==== Sys2Proof/Tests/Slice0.lean ====
section
/-! SUPPORT. Small tests, each about one operation. Expected values come from spec/95_test_vectors.md (its section is
named at each test) or are worked by hand from the rule named; then the witnesses of the obligations' hypotheses. -/

namespace Sys2Proof.Machine.Tests

/-- The state the tests start from: reset, with SDO at a level the test names. -/
def rest : State := { State.reset with sdo := true }

/-- An environment that answers with the bits of these bytes, most significant first, byte after byte. -/
def answers (bs : List Byte) : Peer := fun n _ => (bs.getD (n / 8) 0).getLsbD (7 - n % 8)

/-- What a test looks at in the next state. -/
def look {α : Type} (o : Host.Outcome State Fault Refusal) (f : State → α) : Option α :=
  match o with
  | .next t => some (f t)
  | .fault _ => none
  | .refused _ => none

/-! Ill-formed terms, one for each check of WellFormed. -/

theorem test_default_is_wellFormed : Cfg.default.wf = true := by decide +kernel
theorem test_wf_refuses_adcGain_zero : Cfg.wf { Cfg.default with adcGain := 0 } = false := by decide +kernel
theorem test_wf_refuses_opampGain_zero : Cfg.wf { Cfg.default with opampGain := 0 } = false := by decide +kernel
theorem test_wf_refuses_three_reset_bytes : Cfg.wf { Cfg.default with nReset := 3 } = false := by decide +kernel
theorem test_wf_refuses_three_data_bytes : Cfg.wf { Cfg.default with nData := 3 } = false := by decide +kernel
theorem test_wf_refuses_line_of_sixteen : Cfg.wf { Cfg.default with lineW := 16 } = false := by decide +kernel
theorem test_wf_refuses_field_of_six : Cfg.wf { Cfg.default with fieldWMax := 6 } = false := by decide +kernel
theorem test_wf_refuses_scale_of_hundred : Cfg.wf { Cfg.default with scale := 100 } = false := by decide +kernel
theorem test_wf_refuses_other_minimum : Cfg.wf { Cfg.default with sxMin := -32767 } = false := by decide +kernel
theorem test_wf_refuses_other_maximum : Cfg.wf { Cfg.default with sxMax := 32768 } = false := by decide +kernel
theorem test_wf_refuses_overlapping_fields : Cfg.wf { Cfg.default with pCol := 2 } = false := by decide +kernel
theorem test_wf_refuses_field_past_the_line : Cfg.wf { Cfg.default with vCol := 9 } = false := by decide +kernel
theorem test_wf_refuses_ignored_bits :
    CmdWord.canonical 0x00001 = false ∧ CmdWord.canonical 0x101A5 = false ∧ CmdWord.canonical 0x7FFFF = false
      ∧ CmdWord.canonical 0x100A5 = true ∧ CmdWord.canonical 0x6FFFF = true := by decide
theorem test_wf_refuses_missing_slots :
    CodeWord.wf (.wire .none 0 0xFF) = false ∧ CodeWord.wf (.wire .init 8 0xFF) = false
      ∧ CodeWord.wf (.wire .read 3 0xFF) = false := by decide

/-! Decoding, from words written out by hand: OPSEL in bits 18:16, OPERAND below (R71), the wire bytes of R76. -/

theorem test_decode_nop : decode (.cmd 0b0000000000000000000) = .ok .nop := by decide
theorem test_decode_xfer_A5 : decode (.cmd 0b0010000000010100101) = .ok (.xfer 0xA5) := by decide
theorem test_decode_init : decode (.cmd 0b0100000000000000000) = .ok .init := by decide
theorem test_decode_read : decode (.cmd 0b0110000000000000000) = .ok .read := by decide
theorem test_decode_cond : decode (.cmd 0b1000000000000000000) = .ok .cond := by decide
theorem test_decode_tare : decode (.cmd 0b1010000000000000000) = .ok .tare := by decide
/-- 95 section 1.1: `FMT -9999` is 0x6D8F1. -/
theorem test_decode_fmt_negative : decode (.cmd 0x6D8F1) = .ok (.fmt (BitVec.ofInt 16 (-9999))) := by decide
theorem test_decode_line : decode (.cmd 0b1110000000000000000) = .ok .line := by decide
/-- R72: ignored operand bits are ignored. -/
theorem test_decode_ignores_operand_bits :
    decode (.cmd 0x1FFA5) = .ok (.xfer 0xA5) ∧ decode (.cmd 0x4BEEF) = .ok .cond := by decide
theorem test_decode_wReset : decode (.wire .init 3 0b11111111) = .ok .wReset := by decide
theorem test_decode_wSelClk : decode (.wire .init 4 0b00100000) = .ok .wSelClk := by decide
theorem test_decode_wClkCfg : decode (.wire .init 5 0b00000100) = .ok .wClkCfg := by decide
theorem test_decode_wSelSetup : decode (.wire .init 6 0b00010000) = .ok .wSelSetup := by decide
theorem test_decode_wSetupCfg : decode (.wire .init 7 0b01001100) = .ok .wSetupCfg := by decide
theorem test_decode_wRdData : decode (.wire .read 0 0b00111000) = .ok .wRdData := by decide
theorem test_decode_wFill : decode (.wire .read 2 0b11111111) = .ok .wFill := by decide
/-- R76: no other byte is ever sent from a position. -/
theorem test_decode_refuses_wire_bytes :
    decode (.wire .init 4 0xFF) = .error (.wrongByte .init 4 0xFF) ∧ decode (.wire .read 3 0xFF) = .error (.noSlot .read 3)
      ∧ decodeTableWord 8 0x4D = none ∧ decodeTableWord 24 0x80000 = none := by decide
/-- Log entry 7: by value alone 0xFF is the byte of its first position. -/
theorem test_decode_table_ff : decodeTableWord 8 0xFF = some .wReset := by decide

/-! One operation each. -/

/-- 95 section 2.1, third row: 0x38 out, 1 0 1 0 0 1 0 1 in. -/
theorem test_xfer_trace : look (xferOp (answers [0xA5]) 0x38 rest) (fun t => (t.wire, t.returned)) = some
    ([.lo, .dr false, .hi, .wt, .sm true, .lo, .dr false, .hi, .wt, .sm false,
      .lo, .dr true, .hi, .wt, .sm true, .lo, .dr true, .hi, .wt, .sm false,
      .lo, .dr true, .hi, .wt, .sm false, .lo, .dr false, .hi, .wt, .sm true,
      .lo, .dr false, .hi, .wt, .sm false, .lo, .dr false, .hi, .wt, .sm true], [.byte 0xA5]) := by decide +kernel
/-- 95 section 2.1, fifth row: 0x01 out, first sample 1: 0x80 in, SDO ends at 1. -/
theorem test_xfer_first_sample_is_bit_seven :
    look (xferOp (answers [0x80]) 0x01 rest) (fun t => (t.returned, t.sdo)) = some ([.byte 0x80], true) := by decide +kernel
/-- 95 section 2.2. -/
theorem test_init_bytes :
    look (exec .init rest) (fun t => (bytesSent true t.wire, t.sdo, t.idx))
      = some ([0xFF, 0xFF, 0xFF, 0xFF, 0x20, 0x04, 0x10, 0x4C], false, 0) := by decide +kernel
/-- 95 section 2.3, fifth row: the high byte first. -/
theorem test_read_high_byte_first :
    look (readOp build (answers [0x00, 0x02, 0x01]) rest) (fun t => (t.raw, t.rxh, t.returned))
      = some (some 513, some 0x02, [.sample 513]) := by decide +kernel
/-- 95 section 2.3, third row: no sign extension of the high byte. -/
theorem test_read_msb_set :
    look (readOp build (answers [0x12, 0x80, 0x00]) rest) (fun t => (t.raw, bytesSent true t.wire))
      = some (some 32768, [0x38, 0xFF, 0xFF]) := by decide +kernel
/-- 95 section 1.4. -/
theorem test_cond_midscale :
    look (exec .cond { rest with raw := some 32768 })
        (fun t => (t.volt = some (1235 / 2) ∧ t.meas = some (6175 / 23) ∧ t.unb = some (114855 / 46) : Bool))
        = some true
      ∧ look (exec .cond { rest with raw := some 32768 }) (fun t => (t.px10, t.vx10)) = some (some 24968, some 6175) := by
  decide +kernel
/-- 95 sections 2.4 and 2.5: the power range ends between 43003 and 43004 above, between 43005 and 43006 below. -/
theorem test_cond_range_edges :
    look (exec .cond { rest with raw := some 43003 }) (fun t => (t.px10, t.poor)) = some (some 32767, false)
      ∧ look (exec .cond { rest with raw := some 43004 }) (fun t => (t.px10, t.poor)) = some (some 32767, true)
      ∧ look (exec .cond { rest with raw := some 0, bias := unbiased build 43005 }) (fun t => (t.px10, t.poor))
        = some (some 32768, false)
      ∧ look (exec .cond { rest with raw := some 0, bias := unbiased build 43006 }) (fun t => (t.px10, t.poor))
        = some (some 32768, true) := by decide +kernel
/-- 95 section 2.5: TARE after COND with RAW = 1000; DISP does not move. -/
theorem test_tare :
    look (execAll [.cond, .tare] { rest with raw := some 1000 }) (fun t => (t.bias, t.disp))
      = some (14356875 / 188416, some (14356875 / 188416)) := by decide +kernel
/-- 95 section 2.5, fourth row: a small negative power loses its sign. -/
theorem test_cond_negative_truncates_to_zero :
    look (exec .cond { rest with raw := some 1, bias := unbiased build 2 }) (fun t => t.px10) = some (some 0) := by
  decide +kernel
/-- 95 section 2.6: an interior zero stays, `FMT 1005` is `" 100.5"`. -/
theorem test_fmt_interior_zeros : fmtChars 1005 = [0x20, 0x31, 0x30, 0x30, 0x2E, 0x35] := by decide
/-- 95 section 1.2: `FMT -32768` is `"-3276.8"`. -/
theorem test_fmt_most_negative : fmtChars 0x8000 = [0x2D, 0x33, 0x32, 0x37, 0x36, 0x2E, 0x38] := by decide
/-- 95 section 2.7, fifth row: `" 2496.8  617.5 "`. -/
theorem test_line :
    look (exec .line { rest with px10 := some 24968, vx10 := some 6175 }) (fun t => t.line) = some
      (#v[0x20, 0x32, 0x34, 0x39, 0x36, 0x2E, 0x38, 0x20, 0x20, 0x36, 0x31, 0x37, 0x2E, 0x35, 0x20, 0x00].map some) := by
  decide +kernel
/-- 95 section 2.7, second row: `"-0.5     12.5  "`. -/
theorem test_line_short_fields :
    look (exec .line { rest with px10 := some 65531, vx10 := some 125 }) (fun t => t.line) = some
      (#v[0x2D, 0x30, 0x2E, 0x35, 0x20, 0x20, 0x20, 0x20, 0x20, 0x31, 0x32, 0x2E, 0x35, 0x20, 0x20, 0x00].map some) := by
  decide +kernel
/-- R124: the second byte received in a READ goes to RXH, the third does not. -/
theorem test_wFill_positions :
    look (exec .wFill { rest with sq := .read, idx := 1 }) (fun t => (t.rxh.isSome, t.idx)) = some (true, 2)
      ∧ look (exec .wFill { rest with sq := .read, idx := 2 }) (fun t => (t.rxh.isSome, t.idx)) = some (false, 3) := by
  decide +kernel
/-- R84: with no sequence running a wire byte is a bare transfer. -/
theorem test_wRdData_alone :
    look (exec .wRdData rest) (fun t => (bytesSent true t.wire, t.sq, t.idx)) = some ([0x38], .none, 0) := by decide +kernel
/-- 95 program P5: COND from reset is refused, "nothing is written", and the run is marked. -/
theorem test_cond_from_reset :
    step (State.reset.withFetchWord 24 0x40000) = .next { State.reset with refused := [.raw] } := by rfl
/-- A step runs the instruction placed for it. -/
theorem test_step_runs_placed_word :
    look (step (State.reset.withFetchWord 24 0x20000)) (fun t => (t.wire.length, t.calls)) = some (320, [])
      ∧ look (step (State.reset.withFetchWord 8 0x10)) (fun t => (bytesSent true t.wire, t.idx)) = some ([0x10], 7) := by
  decide +kernel

/-! Witnesses: states and operands that meet the hypotheses of each obligation together. -/

/-- A state with both readings and both fields written, as after `READ; COND`. -/
def conditioned : State := latch build 1000 { rest with raw := some 1000 }

theorem test_witness_StepRunsDecoded :
    (∃ (s : State) (w : CmdWord) (r : List CmdWord) (i : Instr), s.phase = .idle ∧ s.sq = .none ∧ s.calls = w :: r ∧ decode (.cmd w) = .ok i ∧ i = .xfer 0xA5)
      ∧ (∃ (s : State) (b : Byte) (i : Instr), s.phase = .idle ∧ s.sq ≠ .none ∧ (romOf build s.sq)[s.idx.toNat]? = some b
          ∧ decode (.wire s.sq s.idx.toNat b) = .ok i ∧ i = .wSetupCfg)
      ∧ (∃ s : State, s.phase = .idle ∧ s.sq = .none ∧ s.calls = []) :=
  ⟨⟨{ rest with calls := [0x100A5, 0x00000] }, 0x100A5, [0x00000], .xfer 0xA5, by decide⟩,
    ⟨{ rest with sq := .init, idx := 7 }, 0x4C, .wSetupCfg, by decide⟩, ⟨rest, by decide⟩⟩

theorem test_witness_EncodeOfDecode : CmdWord.canonical 0x100FF = true ∧ CmdWord.canonical 0x68000 = true := by decide

theorem test_witness_OperandDecode :
    opsel 0x1FF80 = 1 ∧ opsel 0x67FFF = 6 ∧ opsel 0x68000 = 6 ∧ (opsel 0x7FFFF ≠ 1 ∧ opsel 0x7FFFF ≠ 6)
      ∧ (opsel 0x0FFFF ≠ 1 ∧ opsel 0x0FFFF ≠ 6) := by decide

theorem test_witness_NopChangesNothing : opsel 0x0FFFF = 0 := by decide

theorem test_witness_SampledBitsAreAnswers : (0 : Nat) < 8 ∧ (7 : Nat) < 8 := by decide

theorem test_witness_MicroStepsAreXfer : rest.sq = .none ∧ (0 : Nat) < 40 ∧ (39 : Nat) < 40 := by decide

theorem test_witness_MicroStepRows :
    (setPhase .lower rest).phase = .lower
      ∧ (setPhase .drive (setTxb 0x38 rest)).phase = .drive ∧ (setPhase .drive (setTxb 0x38 rest)).txb = some 0x38
      ∧ (setPhase .raise rest).phase = .raise ∧ (setPhase .wait rest).phase = .wait
      ∧ (setPhase .sample (setBitpos 1 rest)).phase = .sample ∧ (setPhase .sample (setBitpos 1 rest)).bitpos ≠ 0
      ∧ (setPhase .sample rest).phase = .sample ∧ (setPhase .sample rest).bitpos = 0
      ∧ (setPhase .sample rest).sq = .none
      ∧ (setPhase .sample (seqStart .read rest)).phase = .sample ∧ (setPhase .sample (seqStart .read rest)).bitpos = 0
      ∧ (setPhase .sample (seqStart .read rest)).sq ≠ .none := by decide

theorem test_witness_InitSendsConfiguration : opsel 0x2FFFF = 2 := by decide

theorem test_witness_SequenceByteByByte : rest.phase = .idle := by decide

theorem test_witness_WireBytesAreSent :
    (.wReset, 0xFF) ∈ wireTable ∧ (.wSelClk, 0x20) ∈ wireTable ∧ (.wFill, 0xFF) ∈ wireTable := by decide

theorem test_witness_CondStages : (∃ s : State, s.raw = some 0) ∧ ∃ s : State, s.raw = some 65535 :=
  ⟨⟨{ rest with raw := some 0 }, rfl⟩, ⟨{ rest with raw := some 65535 }, rfl⟩⟩

theorem test_witness_CondScaledReadings : conditioned.raw = some 1000 := rfl

/-- Both edges of the range: 43004 and -43006. -/
theorem test_witness_CondIntegerForm :
    (∃ s : State, s.raw = some 43004 ∧ s.bias = ((0 : Word16).toNat : Rat) * 114855 / 1507328)
      ∧ ∃ s : State, s.raw = some 0 ∧ s.bias = ((43006 : Word16).toNat : Rat) * 114855 / 1507328 :=
  ⟨⟨{ rest with raw := some 43004, bias := ((0 : Word16).toNat : Rat) * 114855 / 1507328 }, rfl, rfl⟩,
    ⟨{ rest with raw := some 0, bias := ((43006 : Word16).toNat : Rat) * 114855 / 1507328 }, rfl, rfl⟩⟩

theorem test_witness_CondVoltageTapS2 : conditioned.raw = some 1000 := rfl

theorem test_witness_VoltageFreeOfBias :
    ∃ s s' t t', s.raw = some 7 ∧ s'.raw = some 7 ∧ s.bias ≠ s'.bias ∧ condOp build s = .next t
      ∧ condOp build s' = .next t' :=
  ⟨{ rest with raw := some 7 }, { rest with raw := some 7, bias := 1 }, _, _, rfl, rfl, by decide +kernel, rfl, rfl⟩

theorem test_witness_UnwrittenReadsRefuse :
    rest.raw = none ∧ rest.unb = none ∧ rest.px10 = none
      ∧ (State.px10 { rest with px10 := some 0 } = some 0 ∧ State.vx10 { rest with px10 := some 0 } = none) := by decide

theorem test_witness_TareSetsBias : ∃ q, conditioned.unb = some q := ⟨_, rfl⟩

theorem test_witness_CalibrationThenReading : conditioned.raw = some 1000 := rfl

theorem test_witness_CalibrationIdempotent : conditioned.raw = some 1000 := rfl

theorem test_witness_FmtTotal : opsel 0x6FFFB = 6 := by decide

theorem test_witness_LineLayout :
    State.px10 { rest with px10 := some 32768, vx10 := some 12349 } = some 32768
      ∧ State.vx10 { rest with px10 := some 32768, vx10 := some 12349 } = some 12349 := by decide

/-- The three pairs of columns that fit, and positions at the ends of the fields. -/
theorem test_witness_LineLayoutAnyColumns :
    Cfg.wf { Cfg.default with pCol := 1 } = true ∧ Cfg.wf { Cfg.default with vCol := 7 } = true
      ∧ (fmtChars 32768)[6]? = some 0x38 ∧ (fmtChars 0)[3]? = some 0x30
      ∧ ((14 : Nat) < 15 ∧ 0 + (fmtChars 32768).length ≤ 14 ∧ 8 + (fmtChars 6175).length ≤ 14)
      ∧ (0 < 15 ∧ 0 < 1 ∧ 0 < 8) := by decide +kernel

theorem test_between_rest : Between rest := ⟨rfl, rfl, rfl, rfl, rfl, nofun⟩

theorem test_witness_BetweenKept : Between rest ∧ step rest = .next rest := ⟨test_between_rest, rfl⟩

/-- At rest, and in the middle of a READ's second byte. -/
theorem test_witness_ConsistentNeverStuck :
    Consistent rest ∧ Consistent (sstCall 0xFF { rest with sq := .read, idx := 1 }) :=
  ⟨⟨rfl, ⟨by decide, by decide, by decide, by decide⟩, by decide, by decide⟩,
    ⟨⟨by decide, by decide⟩, ⟨by decide, by decide, by decide, by decide⟩, by decide, by decide⟩⟩

theorem test_witness_WireWholeKept : Between rest ∧ WireWhole rest ∧ step rest = .next rest :=
  ⟨test_between_rest, ⟨[], rfl, rfl, rfl⟩, rfl⟩

theorem test_bias_rest : BiasIsReading rest := ⟨0, by decide +kernel⟩

/-- With nothing latched, and at a TARE after a COND. -/
theorem test_witness_LatchedKept :
    (Latched rest ∧ BiasIsReading rest ∧ step rest = .next rest)
      ∧ ∃ s t, Latched s ∧ BiasIsReading s ∧ step s = .next t ∧ t.bias ≠ s.bias := by
  refine ⟨⟨.inl (by decide), test_bias_rest, rfl⟩, { conditioned with calls := [0x50000] }, _, ?_, test_bias_rest, rfl, ?_⟩
  · have hb : conditioned.bias = unbiased build 0 := by decide +kernel
    refine .inr ⟨1000, 0, rfl, rfl, rfl, ?_, ?_, rfl, ?_, ?_⟩ <;> decide +kernel
  · decide +kernel

theorem test_witness_LineOkKept :
    (LineOk rest ∧ step rest = .next rest)
      ∧ LineOk { rest with line := (lineChars build 24968 6175).map some } :=
  ⟨⟨.inl rfl, rfl⟩, .inr (by decide +kernel)⟩

theorem test_witness_OnlyTheirWriters :
    (∃ t, exec .read rest = .next t ∧ t.raw ≠ rest.raw)
      ∧ (∃ t, exec .tare conditioned = .next t ∧ t.bias ≠ conditioned.bias)
      ∧ (∃ t, exec .line conditioned = .next t ∧ t.line ≠ conditioned.line)
      ∧ (∃ t, exec .cond { rest with raw := some 0 } = .next t ∧ t.volt ≠ rest.volt)
      ∧ (∃ t, exec .nop rest = .next t) ∧ (∃ t, exec (.fmt 5) rest = .next t)
      ∧ (∃ t, exec (.xfer 0) rest = .next t) ∧ ∃ t, exec .init rest = .next t := by
  refine ⟨⟨_, rfl, ?_⟩, ⟨_, rfl, ?_⟩, ⟨_, rfl, ?_⟩, ⟨_, rfl, ?_⟩, ⟨_, rfl⟩, ⟨_, rfl⟩, ⟨_, rfl⟩, ⟨_, rfl⟩⟩
  · exact nofun
  · decide +kernel
  · decide +kernel
  · exact nofun

/-- The last clauses of OnlyTheirWriters: a mark, by each operation that can put one. -/
theorem test_witness_OnlyTheirWriters_marks :
    (∃ t, exec .cond rest = .next t ∧ t.refused ≠ rest.refused)
      ∧ (∃ t, exec .tare rest = .next t ∧ t.refused ≠ rest.refused)
      ∧ ∃ t, exec .line rest = .next t ∧ t.refused ≠ rest.refused :=
  ⟨⟨_, rfl, nofun⟩, ⟨_, rfl, nofun⟩, ⟨_, rfl, nofun⟩⟩

theorem test_witness_WireOnlyGrows : ∃ t, step rest = .next t := ⟨rest, rfl⟩

theorem test_witness_WaitLowerBounds :
    (∃ t, exec (.xfer 0xFF) rest = .next t) ∧ (∃ t, exec .init rest = .next t) ∧ (∃ t, exec .read rest = .next t)
      ∧ (∃ t, exec .wFill rest = .next t) ∧ ∃ t, exec .nop rest = .next t :=
  ⟨⟨_, rfl⟩, ⟨_, rfl⟩, ⟨_, rfl⟩, ⟨_, rfl⟩, ⟨_, rfl⟩⟩

/-- A build the model accepts that is not the default: other bytes, the other tap, the voltage field at column 7. -/
def otherBuild : Cfg :=
  { Cfg.default with bReset := 0xAA, bSetupCfg := 0x4D, bFill := 0x00, voltTap := .s2, vCol := 7 }

theorem test_otherBuild_accepted : otherBuild.wf = true := by decide +kernel

/-- R121 with the bytes of the other build. -/
theorem test_init_of_other_build :
    look (execWith otherBuild (answers []) .init rest) (fun t => (bytesSent true t.wire, t.sdo))
      = some ([0xAA, 0xAA, 0xAA, 0xAA, 0x20, 0x04, 0x10, 0x4D], true) := by decide +kernel

/-- 95 section 2.4: the S2 tap shows 2684 for RAW = 32768. -/
theorem test_cond_of_other_build :
    look (execWith otherBuild (answers []) .cond { rest with raw := some 32768 }) (fun t => t.vx10) = some (some 2684) := by
  decide +kernel

theorem test_witness_StepWithRunsDecoded :
    (∃ (s : State) (w : CmdWord) (r : List CmdWord) (i : Instr), s.phase = .idle ∧ s.sq = .none ∧ s.calls = w :: r
        ∧ decodeWith otherBuild (.cmd w) = .ok i ∧ i = .xfer 0xA5)
      ∧ (∃ (s : State) (b : Byte) (i : Instr), s.phase = .idle ∧ s.sq ≠ .none
          ∧ (romOf otherBuild s.sq)[s.idx.toNat]? = some b
          ∧ decodeWith otherBuild (.wire s.sq s.idx.toNat b) = .ok i ∧ i = .wFill)
      ∧ (∃ s : State, s.phase = .idle ∧ s.sq = .none ∧ s.calls = []) :=
  ⟨⟨{ rest with calls := [0x100A5] }, 0x100A5, [], .xfer 0xA5, by decide⟩,
    ⟨{ rest with sq := .read, idx := 2 }, 0x00, .wFill, by decide⟩, ⟨rest, by decide⟩⟩

theorem test_witness_DecodeOfEncodeAnyBuild : build.wf = true ∧ otherBuild.wf = true := by decide +kernel

theorem test_witness_MicroStepsInSequence :
    (seqStart .init rest).sq ≠ .none ∧ (seqStart .read rest).sq ≠ .none ∧ (39 : Nat) < 40 := by decide

theorem test_witness_InitAnyBuild : otherBuild.wf = true := test_otherBuild_accepted

theorem test_witness_ReadAnyBuild : otherBuild.wf = true := test_otherBuild_accepted

theorem test_witness_WireBytesAnyBuild :
    otherBuild.wf = true ∧ (.wReset, 0xAA) ∈ wireTableOf otherBuild ∧ (.wFill, 0x00) ∈ wireTableOf otherBuild := by
  decide +kernel

theorem test_witness_CondAnyBuild : otherBuild.wf = true ∧ conditioned.raw = some 1000 :=
  ⟨test_otherBuild_accepted, rfl⟩

theorem test_witness_NeverStopsKeepsMarks : otherBuild.wf = true := test_otherBuild_accepted

theorem test_witness_AnyBuildNeverStuck :
    otherBuild.wf = true ∧ Consistent rest ∧ Consistent (sstCall 0xFF { rest with sq := .read, idx := 1 }) :=
  ⟨test_otherBuild_accepted, test_witness_ConsistentNeverStuck⟩

end Sys2Proof.Machine.Tests
end

section
/-! PROOFS. XFER as one operation (spec/40_transceiver.md rule R100), and the order of the bits of its trace
(spec/20_memory.md rule R52). -/

namespace Sys2Proof.Machine

/-- The instruction XFER is the operation in the build's environment. -/
theorem exec_xfer (out : Byte) (s : State) : exec (.xfer out) s = xferOp peer out s := rfl

/-- Everything XFER can do, in any environment: the bits sampled are the bits of RXB, and of the byte returned. -/
theorem xferOp_spec (p : Peer) (out : Byte) (s : State) :
    ∃ b7 b6 b5 b4 b3 b2 b1 b0 : Bool, xferOp p out s = .next
      { s with
        sck := true
        sdo := out.getLsbD 0
        txb := some out
        rxb := #v[some b0, some b1, some b2, some b3, some b4, some b5, some b6, some b7]
        bitpos := 0
        phase := .idle
        wire := s.wire ++ byteEvents out b7 b6 b5 b4 b3 b2 b1 b0
        draws := s.draws + 8
        returned := s.returned ++ [.byte (byteOfBits b7 b6 b5 b4 b3 b2 b1 b0)] } := by
  obtain ⟨b7, b6, b5, b4, b3, b2, b1, b0, hrun⟩ := xferRun_spec p out s
  refine ⟨b7, b6, b5, b4, b3, b2, b1, b0, ?_⟩
  rw [xferOp, hrun]
  exact returnRxb_some (rxbByte_full b0 b1 b2 b3 b4 b5 b6 b7)

/-- One byte's trace drives the byte sent, bit 7 first. -/
@[simp] theorem drives_byteEvents (out : Byte) (b7 b6 b5 b4 b3 b2 b1 b0 : Bool) :
    drives (byteEvents out b7 b6 b5 b4 b3 b2 b1 b0)
      = [out.getLsbD 7, out.getLsbD 6, out.getLsbD 5, out.getLsbD 4, out.getLsbD 3, out.getLsbD 2,
          out.getLsbD 1, out.getLsbD 0] := rfl

/-- One byte's trace samples its eight bits in the order they came. -/
@[simp] theorem samples_byteEvents (out : Byte) (b7 b6 b5 b4 b3 b2 b1 b0 : Bool) :
    samples (byteEvents out b7 b6 b5 b4 b3 b2 b1 b0) = [b7, b6, b5, b4, b3, b2, b1, b0] := rfl

/-- The bits of a byte put together from eight bits, bit 7 first; the converse of `byteOfBits_getLsbD`. -/
theorem getLsbD_byteOfBits (b7 b6 b5 b4 b3 b2 b1 b0 : Bool) :
    let b := byteOfBits b7 b6 b5 b4 b3 b2 b1 b0
    [b.getLsbD 7, b.getLsbD 6, b.getLsbD 5, b.getLsbD 4, b.getLsbD 3, b.getLsbD 2, b.getLsbD 1, b.getLsbD 0]
      = [b7, b6, b5, b4, b3, b2, b1, b0] := by
  revert b7 b6 b5 b4 b3 b2 b1 b0
  decide

/-- Settles O12: the trace of the byte is `byteEvents`, which drives and samples from bit 7 down, and the byte returned is
put together from the bits sampled, in that order. -/
theorem bitOrderMsbFirst : Obligations.BitOrderMsbFirst := by
  intro s out
  obtain ⟨b7, b6, b5, b4, b3, b2, b1, b0, hxfer⟩ := xferOp_spec peer out s
  refine ⟨byteEvents out b7 b6 b5 b4 b3 b2 b1 b0, byteOfBits b7 b6 b5 b4 b3 b2 b1 b0, _,
    (exec_xfer out s).trans hxfer, rfl, rfl, rxbByte_full .., drives_byteEvents .., ?_⟩
  rw [samples_byteEvents, getLsbD_byteOfBits]

end Sys2Proof.Machine
end

section
/-! PROOFS. READ as one operation (spec/41_sequencer.md rule R124), and the two halves of the sample it assembles
(spec/20_memory.md rule R53, spec/30_encoding.md rule R75). -/

namespace Sys2Proof.Machine

/-- The instruction READ is the operation of the build in its environment. -/
theorem exec_read (s : State) : exec .read s = readOp build peer s := rfl

/-- A sample is unsigned: no sign extension of either byte, and no carry out of the sixteen bits. -/
@[simp] theorem rawOf_toNat (hi lo : Byte) : (rawOf hi lo).toNat = 256 * hi.toNat + lo.toNat := by
  simp [rawOf]
  omega

/-- The assembly of a sample is the high byte followed by the low byte. -/
theorem rawOf_eq_append (hi lo : Byte) : rawOf hi lo = hi ++ lo := by
  apply BitVec.eq_of_toNat_eq
  rw [rawOf_toNat, BitVec.toNat_append, ← Nat.shiftLeft_add_eq_or_of_lt lo.isLt, Nat.shiftLeft_eq, Nat.mul_comm]

/-- The high half of a sample is the first result byte. -/
@[simp] theorem rawOf_high (hi lo : Byte) : (rawOf hi lo).extractLsb' 8 8 = hi := by
  rw [rawOf_eq_append, BitVec.extractLsb'_append_eq_left]

/-- The low half of a sample is the second result byte. -/
@[simp] theorem rawOf_low (hi lo : Byte) : (rawOf hi lo).extractLsb' 0 8 = lo := by
  rw [rawOf_eq_append, BitVec.extractLsb'_append_eq_right]

/-- Everything READ can do, in every build the model accepts and any environment. -/
theorem readOp_wf {c : Cfg} (hc : c.wf = true) (p : Peer) (s : State) :
    ∃ g h l ev rx, rxbByte rx = some l ∧ Transfers [c.bRdData, c.bFill, c.bFill] [g, h, l] ev
      ∧ readOp c p s = .next
        { s with
          sck := true
          sdo := c.bFill.getLsbD 0
          txb := some c.bFill
          rxb := rx
          bitpos := 0
          phase := .idle
          sq := .none
          idx := 0
          rxh := some h
          raw := some (rawOf h l)
          wire := s.wire ++ ev
          draws := s.draws + 24
          returned := s.returned ++ [.sample (rawOf h l)] } := by
  obtain ⟨g, h, l, ev, rx, hrx, hev, htable⟩ := readTable_wf hc p s
  refine ⟨g, h, l, ev, rx, hrx, hev, ?_⟩
  rw [readOp, htable]
  exact seqFinish_read rfl rfl hrx

/-- Settles O18: the three bytes received are those of the trace of READ's table, and the sample is the second of them
followed by the third. -/
theorem readAssemblesSample : Obligations.ReadAssemblesSample := by
  intro s
  obtain ⟨c, h, l, ev, rx, -, hev, hread⟩ := readOp_wf build_wf peer s
  exact ⟨ev, c, h, l, rawOf h l, _, (exec_read s).trans hread, rfl, hev.received, rfl, rfl, rawOf_high h l,
    rawOf_low h l, rawOf_toNat h l, rfl⟩

end Sys2Proof.Machine
end

section
/-! PROOFS. What XFER may return (spec/40_transceiver.md rule R105): always a byte, and, the environment being free, any
byte. -/

namespace Sys2Proof.Machine

/-- An environment that answers the draw of each number with a bit fixed in advance, whatever is on the wire. -/
def scripted (f : Nat → Bool) : Peer := fun n _ => f n

/-- One bit is one draw. -/
@[simp] theorem xferBit_draws (p : Peer) (out : Byte) (i : BitVec 3) (s : State) :
    (xferBit p out i s).draws = s.draws + 1 := by
  rw [xferBit_eq]

/-- One bit writes the scripted answer at its place in RXB. -/
@[simp] theorem xferBit_scripted_rxb (f : Nat → Bool) (out : Byte) (i : BitVec 3) (s : State) :
    (xferBit (scripted f) out i s).rxb = s.rxb.set i.toNat (some (f s.draws)) i.isLt := by
  rw [xferBit_eq, scripted]

/-- The byte received is the next eight scripted answers, bit 7 first. -/
theorem rxbByte_xferRun_scripted (f : Nat → Bool) (out : Byte) (s : State) :
    rxbByte (xferRun (scripted f) out s).rxb
      = some (byteOfBits (f s.draws) (f (s.draws + 1)) (f (s.draws + 2)) (f (s.draws + 3)) (f (s.draws + 4))
          (f (s.draws + 5)) (f (s.draws + 6)) (f (s.draws + 7))) := by
  simp [xferRun, bitPositions, rxbByte]

/-- The bits of a byte as the answers to the draws from one on, most significant first. -/
def spell (b : Byte) (start : Nat) : Nat → Bool := fun n => b.getLsbD (7 - (n - start))

/-- An environment that spells a byte from XFER's first draw on has that byte received. -/
theorem rxbByte_xferRun_spell (b out : Byte) (s : State) :
    rxbByte (xferRun (scripted (spell b s.draws)) out s).rxb = some b := by
  rw [rxbByte_xferRun_scripted]
  simpa [spell] using byteOfBits_getLsbD b

/-- XFER completes with some byte, in any environment. -/
theorem xferOp_returns_some_byte (p : Peer) (out : Byte) (s : State) :
    ∃ b t, xferOp p out s = .next t ∧ t.returned = s.returned ++ [Returned.byte b] := by
  obtain ⟨b7, b6, b5, b4, b3, b2, b1, b0, hxfer⟩ := xferOp_spec p out s
  exact ⟨byteOfBits b7 b6 b5 b4 b3 b2 b1 b0, _, hxfer, rfl⟩

/-- XFER completes with a byte named in advance, in the environment that spells it. -/
theorem xferOp_returns_spelled_byte (b out : Byte) (s : State) :
    ∃ t, xferOp (scripted (spell b s.draws)) out s = .next t ∧ t.returned = s.returned ++ [Returned.byte b] := by
  obtain ⟨b7, b6, b5, b4, b3, b2, b1, b0, hrun⟩ := xferRun_spec (scripted (spell b s.draws)) out s
  refine ⟨_, returnRxb_some (rxbByte_xferRun_spell b out s), ?_⟩
  rw [returnToHost_returned, hrun]

/-- Settles O11: XFER's next state is known in any environment, hence in the machine's own, and a byte is returned where
the environment spells it. -/
theorem xferReturnsAnyByte : Obligations.XferReturnsAnyByte :=
  ⟨xferOp_returns_some_byte, fun out s b => ⟨scripted (spell b s.draws), xferOp_returns_spelled_byte b out s⟩,
    fun out s => exec_xfer out s ▸ xferOp_returns_some_byte peer out s⟩

end Sys2Proof.Machine
end

section
/-! PROOFS. COND as one latch of the four exact stages (spec/42_pipeline.md rules R142 to R145), and TARE after it
(rules R152, R154). -/

namespace Sys2Proof.Machine

/-- The instruction COND is the operation of the build. -/
theorem exec_cond (s : State) : exec .cond s = condOp build s := rfl

/-- The instruction TARE is the operation. -/
theorem exec_tare (s : State) : exec .tare s = execTare s := rfl

section latch
variable (c : Cfg) (r : Word16) (s : State)
@[simp] theorem latch_volt : (latch c r s).volt = some (voltage c r) := rfl
@[simp] theorem latch_meas : (latch c r s).meas = some (measured c r) := rfl
@[simp] theorem latch_unb : (latch c r s).unb = some (unbiased c r) := rfl
@[simp] theorem latch_disp : (latch c r s).disp = some (unbiased c r - s.bias) := rfl
end latch

/-- TARE with an unbiased reading copies it to BIAS. -/
theorem execTare_some {s : State} {q : Rat} (h : s.unb = some q) : execTare s = .next { s with bias := q } := by
  simp [execTare, h]

/-- Calibration on a sample: COND latches it, TARE takes its unbiased reading as the bias. -/
theorem execAll_cond_tare {s : State} {a : Word16} (h : s.raw = some a) :
    execAll [.cond, .tare] s = .next { latch build a s with bias := unbiased build a } := by
  simp only [execAll, exec_cond, exec_tare, condOp_some h, andThen, execTare_some (latch_unb build a s)]

/-- Every code reads below the reference: full scale is 65536, one above the greatest code. -/
theorem voltage_build_lt_reference (r : Word16) : voltage build r < 1000 * (build.vRef / build.adcGain) := by
  have hr : (r.toNat : Rat) < 65536 := by exact_mod_cast r.isLt
  rw [voltage_build, build_vRef, build_adcGain]
  linarith

/-- With the bias above the reading, COND displays a negative power. -/
theorem exec_cond_disp_neg {s : State} {r : Word16} (h : s.raw = some r) (hbias : unbiased build r < s.bias) :
    ∃ t d, exec .cond s = .next t ∧ t.disp = some d ∧ d < 0 :=
  ⟨latch build r s, _, condOp_some h, latch_disp build r s, sub_neg.mpr hbias⟩

/-- Settles O24: the stages are those of `latch`, evaluated at the build's constants by `voltage_build`,
`measured_build` and `unbiased_build`; code 0 under a bias of 1 mW displays a negative power. -/
theorem condStages : Obligations.CondStages := by
  refine ⟨fun c s r h => ?stages, fun s r h => ?defaults, voltage_build_lt_reference 65535, ?negative⟩
  case stages =>
    exact ⟨latch c r s, voltage c r, measured c r, unbiased c r, condOp_some h, rfl, rfl, rfl, rfl, rfl, rfl, rfl⟩
  case defaults =>
    refine ⟨latch build r s, condOp_some h, ?_⟩
    simp only [latch_volt, latch_meas, latch_unb, latch_disp, voltage_build, measured_build, unbiased_build, and_self]
  case negative =>
    have hbias : unbiased build 0 < 1 := by norm_num [unbiased_build]
    exact ⟨{ State.reset with raw := some 0, bias := 1 }, exec_cond_disp_neg rfl hbias⟩

/-- Settles O31: TARE leaves the unbiased reading of the first code as the bias, and COND subtracts it from the second's;
both are one factor times the code. -/
theorem calibrationThenReading : Obligations.CalibrationThenReading := by
  intro s a b h
  have hdiff : unbiased build b - unbiased build a = ((b.toNat : Rat) - a.toNat) * 114855 / 1507328 := by
    rw [unbiased_build, unbiased_build]
    ring
  refine ⟨_, _, execAll_cond_tare h, (exec_cond _).trans (condOp_some rfl), rfl, ?_⟩
  rw [latch_disp, hdiff]

end Sys2Proof.Machine
end

section
/-! PROOFS. The decoder and the encoder undo each other (spec/30_encoding.md sections 2 and 3). -/

namespace Sys2Proof

open Machine (build build_wf romOf_init_length_wf romOf_read_length_wf initRom_wf readRom_wf)

/-- Whether an encoding is canonical does not depend on the build: the bytes of the wire are not looked at. -/
theorem encodeWith_wf_eq (c : Cfg) (i : Instr) : (encodeWith c i).wf = (encode i).wf := by
  cases i <;> rfl

/-- Every instruction's encoding is a well-formed code word, from the lemma of each instruction. -/
theorem encode_wf (i : Instr) : (encode i).wf = true := by
  cases i with
  | nop => exact Laws.Canonical.nop
  | xfer out => exact Laws.Canonical.xfer out
  | init => exact Laws.Canonical.init
  | read => exact Laws.Canonical.read
  | cond => exact Laws.Canonical.cond
  | tare => exact Laws.Canonical.tare
  | fmt v => exact Laws.Canonical.fmt v
  | line => exact Laws.Canonical.line
  | wReset => exact Laws.Canonical.wReset
  | wSelClk => exact Laws.Canonical.wSelClk
  | wClkCfg => exact Laws.Canonical.wClkCfg
  | wSelSetup => exact Laws.Canonical.wSelSetup
  | wSetupCfg => exact Laws.Canonical.wSetupCfg
  | wRdData => exact Laws.Canonical.wRdData
  | wFill => exact Laws.Canonical.wFill

/-- A wire byte is an instruction exactly where SEQ has a position and the table holds that byte there. -/
theorem decodeWire_eq_ok_iff {c : Cfg} {sq : SeqId} {idx : Nat} {b : Byte} {i : Instr} :
    decodeWire c sq idx b = .ok i ↔ wireInstr sq idx = some i ∧ (romOf c sq)[idx]? = some b := by
  unfold decodeWire
  cases wireInstr sq idx with
  | none => simp
  | some j => by_cases hb : (romOf c sq)[idx]? = some b <;> simp [hb]

/-- The positions of SEQ are the indices of its tables, in every build the model accepts. -/
theorem exists_wireInstr_of_lt {c : Cfg} (hc : c.wf = true) {sq : SeqId} {idx : Nat}
    (h : idx < (romOf c sq).length) : ∃ i, wireInstr sq idx = some i := by
  cases sq with
  | none => simp [romOf] at h
  | init =>
    rw [romOf_init_length_wf hc] at h
    interval_cases idx <;> exact ⟨_, rfl⟩
  | read =>
    rw [romOf_read_length_wf hc] at h
    interval_cases idx <;> exact ⟨_, rfl⟩

/-- Every byte of a table decodes at its own position, in every build the model accepts. -/
theorem decodeWire_of_rom {c : Cfg} (hc : c.wf = true) {sq : SeqId} {idx : Nat} {b : Byte}
    (h : (romOf c sq)[idx]? = some b) : ∃ i, decodeWire c sq idx b = .ok i := by
  obtain ⟨hlt, -⟩ := List.getElem?_eq_some_iff.mp h
  obtain ⟨i, hi⟩ := exists_wireInstr_of_lt hc hlt
  exact ⟨i, (decodeWire_eq_ok_iff).mpr ⟨hi, h⟩⟩

/-- The rows of the command decoder, by OPSEL. -/
theorem decodeCmd_rows (w : CmdWord) :
    (opsel w = 0 → decodeCmd w = .nop) ∧ (opsel w = 1 → decodeCmd w = .xfer (xferOperand w))
      ∧ (opsel w = 2 → decodeCmd w = .init) ∧ (opsel w = 3 → decodeCmd w = .read) ∧ (opsel w = 4 → decodeCmd w = .cond)
      ∧ (opsel w = 5 → decodeCmd w = .tare) ∧ (opsel w = 6 → decodeCmd w = .fmt (operand w))
      ∧ (opsel w = 7 → decodeCmd w = .line) := by
  delta decodeCmd
  refine ⟨?_, ?_, ?_, ?_, ?_, ?_, ?_, ?_⟩ <;> intro h <;> rw [h] <;> rfl

/-- The decoder undoes the encoder: a command word gives back its two fields, and a wire byte stands in its table at the
position the encoder names. -/
theorem decodeWith_encodeWith {c : Cfg} (hc : c.wf = true) (i : Instr) : decodeWith c (encodeWith c i) = .ok i := by
  cases i with
  | nop | init | read | cond | tare | fmt v | line => simp [encodeWith, decodeCmd_rows]
  | xfer out => simp [encodeWith, decodeCmd_rows, BitVec.setWidth_setWidth_of_le]
  | wReset | wSelClk | wClkCfg | wSelSetup | wSetupCfg =>
    rw [encodeWith, decodeWith_wire, decodeWire_eq_ok_iff, romOf, initRom_wf hc]
    exact ⟨rfl, rfl⟩
  | wRdData | wFill =>
    rw [encodeWith, decodeWith_wire, decodeWire_eq_ok_iff, romOf, readRom_wf hc]
    exact ⟨rfl, rfl⟩

/-- Settles O53: the encoding is canonical whatever the build, and the decoder undoes it. -/
theorem decodeOfEncodeAnyBuild : Obligations.DecodeOfEncodeAnyBuild := fun c hc i =>
  ⟨(encodeWith_wf_eq c i).trans (encode_wf i), decodeWith_encodeWith hc i⟩

/-- Settles O3: the documented defaults are a build the model accepts. -/
theorem decodeOfEncode : Obligations.DecodeOfEncode := decodeOfEncodeAnyBuild build build_wf

/-- A canonical word carries no operand but XFER's and FMT's (spec/30_encoding.md rule R72). -/
theorem operand_eq_zero_of_canonical {w : CmdWord} (h : CmdWord.canonical w = true) (h1 : opsel w ≠ 1)
    (h6 : opsel w ≠ 6) : operand w = 0 := by
  have h1' : w.toNat / 65536 ≠ 1 := fun e => h1 (BitVec.eq_of_toNat_eq ((opsel_toNat w).trans e))
  have h6' : w.toNat / 65536 ≠ 6 := fun e => h6 (BitVec.eq_of_toNat_eq ((opsel_toNat w).trans e))
  apply BitVec.eq_of_toNat_eq
  rw [operand_toNat]
  simpa [CmdWord.canonical, h1', h6'] using h

/-- The operand of a canonical XFER word is its byte, zero-extended. -/
theorem operand_eq_setWidth_of_canonical {w : CmdWord} (h : CmdWord.canonical w = true) (h1 : opsel w = 1) :
    operand w = (xferOperand w).setWidth 16 := by
  have h1' : w.toNat / 65536 = 1 := (opsel_toNat w).symm.trans (congrArg BitVec.toNat h1)
  have hlt : w.toNat % 65536 < 256 := by simpa [CmdWord.canonical, h1'] using h
  apply BitVec.eq_of_toNat_eq
  rw [BitVec.toNat_setWidth, operand_toNat, xferOperand_toNat]
  omega

/-- Settles O4: a canonical word is its OPSEL with the operand the encoder writes. -/
theorem encodeOfDecode : Obligations.EncodeOfDecode := by
  intro w h
  have hparts := cmdWord_parts w
  by_cases h1 : opsel w = 1
  · rw [h1, operand_eq_setWidth_of_canonical h h1] at hparts
    simpa [decodeCmd_rows, h1, encode, encodeWith] using hparts
  by_cases h6 : opsel w = 6
  · rw [h6] at hparts
    simpa [decodeCmd_rows, h6, encode, encodeWith] using hparts
  rw [operand_eq_zero_of_canonical h h1 h6] at hparts
  rcases opsel_cases w with ho | ho | ho | ho | ho | ho | ho | ho <;> rw [ho] at hparts
  case inr.inl => exact absurd ho h1
  case inr.inr.inr.inr.inr.inr.inl => exact absurd ho h6
  all_goals simpa [decodeCmd_rows, ho, encode, encodeWith] using hparts

/-- Settles O5: the fields of the word, read as numbers, are the operands; the other arms of the decoder do not look at
the operand. -/
theorem operandDecode : Obligations.OperandDecode := by
  refine ⟨fun w h => ?xfer, fun w h => ?fmt, fun w h1 h6 => ?ignored, fun w => ⟨decodeCmd w, rfl⟩⟩
  case xfer => exact ⟨xferOperand w, by simp [decodeCmd_rows, h], xferOperand_toNat w⟩
  case fmt =>
    refine ⟨operand w, by simp [decodeCmd_rows, h], ?_⟩
    rw [BitVec.toInt_eq_toNat_cond, operand_toNat]
    split <;> split <;> omega
  case ignored =>
    rcases opsel_cases w with ho | ho | ho | ho | ho | ho | ho | ho
    case inr.inl => exact absurd ho h1
    case inr.inr.inr.inr.inr.inr.inl => exact absurd ho h6
    all_goals simp [decodeCmd_rows, ho]

/-- W_RESET has the first four positions of INIT. -/
theorem wireInstr_eq_wReset_iff {idx : Nat} : wireInstr .init idx = some .wReset ↔ idx < 4 := by
  delta wireInstr
  dsimp only
  split_ifs <;> simp <;> omega

/-- W_FILL has the last two positions of READ. -/
theorem wireInstr_eq_wFill_iff {idx : Nat} : wireInstr .read idx = some .wFill ↔ idx = 1 ∨ idx = 2 := by
  delta wireInstr
  dsimp only
  split_ifs <;> simp <;> omega

/-- Settles O6: decoding is by `decodeWire_eq_ok_iff`, and 0xFF stands in the tables at the positions of W_RESET and
W_FILL. -/
theorem wireDecodeByPosition : Obligations.WireDecodeByPosition := by
  refine ⟨fun sq idx b => ⟨fun ⟨i, hi⟩ => ((decodeWire_eq_ok_iff).mp hi).2, decodeWire_of_rom build_wf⟩,
    fun idx => ?reset, fun idx => ?fill, fun idx b => ⟨.noSlot .none idx, rfl⟩⟩
  case reset =>
    refine (decodeWire_eq_ok_iff).trans ((and_iff_left_of_imp fun h => ?_).trans wireInstr_eq_wReset_iff)
    have hidx := (wireInstr_eq_wReset_iff).mp h
    interval_cases idx <;> rfl
  case fill =>
    refine (decodeWire_eq_ok_iff).trans ((and_iff_left_of_imp fun h => ?_).trans wireInstr_eq_wFill_iff)
    obtain rfl | rfl := (wireInstr_eq_wFill_iff).mp h <;> rfl

/-- Settles O7: the decoder evaluated on the six rows. -/
theorem sampleEncodings : Obligations.SampleEncodings := by
  unfold Obligations.SampleEncodings
  decide

/-- Settles O8: NOP's arm of the decoder does not look at the operand, and the operation answers the state given. -/
theorem nopChangesNothing : Obligations.NopChangesNothing :=
  ⟨fun w h => by simp [decodeCmd_rows, h], fun _ => rfl⟩

end Sys2Proof
end

section
/-! PROOFS. What each instruction sends, keeps and marks, said once for every build the model accepts and any
environment; the invariants of later sections are read off these lemmas. -/

namespace Sys2Proof.Machine

variable {c : Cfg} {p : Peer} {i : Instr} {s t u : State}

/-- The instruction meanings are the parametric ones at the build and its environment. -/
theorem exec_eq_execWith (i : Instr) (s : State) : exec i s = execWith build peer i s := by
  cases i <;> rfl

/-- The step of the machine is the parametric one at the build and its environment. -/
theorem step_eq_stepWith (s : State) : step s = stepWith build peer s := by
  have hexec : exec = execWith build peer := funext fun i => funext (exec_eq_execWith i)
  rw [step, stepWith, hexec]

/-- Settles O51. -/
theorem execAndStepOfBuild : Obligations.ExecAndStepOfBuild := ⟨exec_eq_execWith, step_eq_stepWith⟩

/-- Everything INIT can do, in every build the model accepts and any environment. -/
theorem initOp_wf (hc : c.wf = true) (p : Peer) (s : State) :
    ∃ gots last ev rx, gots.length = 7 ∧ rxbByte rx = some last
      ∧ Transfers [c.bReset, c.bReset, c.bReset, c.bReset, c.bSelClk, c.bClkCfg, c.bSelSetup, c.bSetupCfg]
          (gots ++ [last]) ev
      ∧ initOp c p s = .next
        { s with
          sck := true
          sdo := c.bSetupCfg.getLsbD 0
          txb := some c.bSetupCfg
          rxb := rx
          bitpos := 0
          phase := .idle
          sq := .none
          idx := 0
          wire := s.wire ++ ev
          draws := s.draws + 64 } := by
  obtain ⟨gots, last, ev, rx, hgots, hrx, hev, htable⟩ := initTable_wf hc p s
  refine ⟨gots, last, ev, rx, hgots, hrx, hev, ?_⟩
  rw [initOp, htable]
  rfl

/-- A wire instruction sends its byte as part of the running sequence. -/
theorem execWith_wireTableOf {b : Byte} (h : (i, b) ∈ wireTableOf c) (p : Peer) (s : State) :
    execWith c p i s = .next (seqSend c p b s) := by
  simp only [wireTableOf, List.mem_cons, Prod.mk.injEq, List.not_mem_nil, or_false] at h
  rcases h with ⟨rfl, rfl⟩ | ⟨rfl, rfl⟩ | ⟨rfl, rfl⟩ | ⟨rfl, rfl⟩ | ⟨rfl, rfl⟩ | ⟨rfl, rfl⟩ | ⟨rfl, rfl⟩ <;> rfl

/-- The registers of GOP and DFMT keep their content: what the HOST can read, but RAW. -/
def DataKept (s t : State) : Prop := hostView t = { hostView s with raw := t.raw }

namespace DataKept

theorem bias (h : DataKept s t) : t.bias = s.bias := congrArg HostView.bias h
theorem volt (h : DataKept s t) : t.volt = s.volt := congrArg HostView.volt h
theorem meas (h : DataKept s t) : t.meas = s.meas := congrArg HostView.meas h
theorem unb (h : DataKept s t) : t.unb = s.unb := congrArg HostView.unb h
theorem disp (h : DataKept s t) : t.disp = s.disp := congrArg HostView.disp h
theorem px10 (h : DataKept s t) : t.px10 = s.px10 := congrArg HostView.px10 h
theorem vx10 (h : DataKept s t) : t.vx10 = s.vx10 := congrArg HostView.vx10 h
theorem poor (h : DataKept s t) : t.poor = s.poor := congrArg HostView.poor h
theorem voor (h : DataKept s t) : t.voor = s.voor := congrArg HostView.voor h
theorem line (h : DataKept s t) : t.line = s.line := congrArg HostView.line h

theorem trans (h : DataKept s t) (h' : DataKept t u) : DataKept s u :=
  Eq.trans h' (congrArg (fun v : HostView => { v with raw := u.raw }) h)

end DataKept

/-- The pins, the registers of SST and SEQ, RAW, the wire trace, the draws and the pending calls keep their content. -/
def PinsKept (s t : State) : Prop :=
  t = { s with
    bias := t.bias
    volt := t.volt
    meas := t.meas
    unb := t.unb
    disp := t.disp
    px10 := t.px10
    vx10 := t.vx10
    poor := t.poor
    voor := t.voor
    line := t.line
    returned := t.returned
    refused := t.refused }

namespace PinsKept

theorem sck (h : PinsKept s t) : t.sck = s.sck := (congrArg State.sck h :)
theorem sdo (h : PinsKept s t) : t.sdo = s.sdo := (congrArg State.sdo h :)
theorem txb (h : PinsKept s t) : t.txb = s.txb := (congrArg State.txb h :)
theorem rxb (h : PinsKept s t) : t.rxb = s.rxb := (congrArg State.rxb h :)
theorem bitpos (h : PinsKept s t) : t.bitpos = s.bitpos := (congrArg State.bitpos h :)
theorem phase (h : PinsKept s t) : t.phase = s.phase := (congrArg State.phase h :)
theorem sq (h : PinsKept s t) : t.sq = s.sq := (congrArg State.sq h :)
theorem idx (h : PinsKept s t) : t.idx = s.idx := (congrArg State.idx h :)
theorem rxh (h : PinsKept s t) : t.rxh = s.rxh := (congrArg State.rxh h :)
theorem raw (h : PinsKept s t) : t.raw = s.raw := (congrArg State.raw h :)
theorem wire (h : PinsKept s t) : t.wire = s.wire := (congrArg State.wire h :)
theorem draws (h : PinsKept s t) : t.draws = s.draws := (congrArg State.draws h :)
theorem calls (h : PinsKept s t) : t.calls = s.calls := (congrArg State.calls h :)

end PinsKept

/-- SST between two bytes: SCK = 1, nothing half done, and SDO holds bit 0 of the last byte sent. -/
def SstAtRest (t : State) : Prop :=
  t.sck = true ∧ t.phase = .idle ∧ t.bitpos = 0 ∧ ∀ b, t.txb = some b → t.sdo = b.getLsbD 0

/-- A byte just sent leaves SST at rest. -/
theorem sstAtRest_of_sent {out : Byte} (hsck : t.sck = true) (hphase : t.phase = .idle) (hbitpos : t.bitpos = 0)
    (htxb : t.txb = some out) (hsdo : t.sdo = out.getLsbD 0) : SstAtRest t := by
  refine ⟨hsck, hphase, hbitpos, fun b hb => ?_⟩
  cases htxb.symm.trans hb
  exact hsdo

/-- What every operation that sends these bytes leaves: SST at rest, SEQ at rest if it was, whole bytes on the wire with
one draw a bit, and nothing else that the other units or the HOST own. -/
def Sends (outs : List Byte) (s t : State) : Prop :=
  SstAtRest t ∧ (s.sq = .none → s.idx = 0 → t.sq = .none ∧ t.idx = 0)
    ∧ (∃ gots ev, Transfers outs gots ev ∧ t.wire = s.wire ++ ev) ∧ t.draws = s.draws + 8 * outs.length
    ∧ DataKept s t ∧ t.calls = s.calls ∧ t.refused = s.refused

namespace Sends

variable {outs : List Byte}

theorem rest (h : Sends outs s t) : SstAtRest t := h.1

theorem seq (h : Sends outs s t) : s.sq = .none → s.idx = 0 → t.sq = .none ∧ t.idx = 0 := h.2.1

theorem trace (h : Sends outs s t) : ∃ gots ev, Transfers outs gots ev ∧ t.wire = s.wire ++ ev := h.2.2.1

theorem draws (h : Sends outs s t) : t.draws = s.draws + 8 * outs.length := h.2.2.2.1

theorem data (h : Sends outs s t) : DataKept s t := h.2.2.2.2.1

theorem calls (h : Sends outs s t) : t.calls = s.calls := h.2.2.2.2.2.1

theorem refused (h : Sends outs s t) : t.refused = s.refused := h.2.2.2.2.2.2

end Sends

/-- One byte's piece of trace, as a trace of one transfer. -/
theorem transfers_of_isByte {out got : Byte} {ev : List WireEvent} (h : IsByte out got ev) :
    Transfers [out] [got] ev := by
  simpa using (Transfers.nil).append h

/-- XFER sends its byte. -/
theorem xferOp_sends (p : Peer) (out : Byte) (s : State) : ∃ t, xferOp p out s = .next t ∧ Sends [out] s t := by
  obtain ⟨b7, b6, b5, b4, b3, b2, b1, b0, hxfer⟩ := xferOp_spec p out s
  exact ⟨_, hxfer, sstAtRest_of_sent rfl rfl rfl rfl rfl, .intro, ⟨_, _, Transfers.one .., rfl⟩, rfl, rfl, rfl, rfl⟩

/-- One byte of a sequence is sent. -/
theorem seqSend_sends (c : Cfg) (p : Peer) (out : Byte) (s : State) : Sends [out] s (seqSend c p out s) := by
  obtain ⟨got, ev, rx, hev, -, hsend⟩ := seqSend_spec c p out s
  rw [hsend]
  refine ⟨sstAtRest_of_sent rfl rfl rfl rfl rfl, fun hsq hidx => ⟨hsq, ?_⟩, ⟨_, _, transfers_of_isByte hev, rfl⟩, rfl,
    rfl, rfl, rfl⟩
  simp [hsq, hidx]

/-- The bytes an instruction sends, in any build; none for the operations that do not touch the wire. -/
def bytesOf (c : Cfg) : Instr → List Byte
  | .xfer out => [out]
  | .init => [c.bReset, c.bReset, c.bReset, c.bReset, c.bSelClk, c.bClkCfg, c.bSelSetup, c.bSetupCfg]
  | .read => [c.bRdData, c.bFill, c.bFill]
  | .wReset => [c.bReset]
  | .wSelClk => [c.bSelClk]
  | .wClkCfg => [c.bClkCfg]
  | .wSelSetup => [c.bSelSetup]
  | .wSetupCfg => [c.bSetupCfg]
  | .wRdData => [c.bRdData]
  | .wFill => [c.bFill]
  | .nop | .cond | .tare | .fmt _ | .line => []

/-- An instruction that sends bytes completes and has sent exactly them. -/
theorem execWith_sends (hc : c.wf = true) (p : Peer) (h : bytesOf c i ≠ []) (s : State) :
    ∃ t, execWith c p i s = .next t ∧ Sends (bytesOf c i) s t := by
  cases i with
  | nop | cond | tare | fmt v | line => exact absurd rfl h
  | xfer out => exact xferOp_sends p out s
  | init =>
    obtain ⟨gots, last, ev, rx, -, -, hev, hinit⟩ := initOp_wf hc p s
    exact ⟨_, hinit, sstAtRest_of_sent rfl rfl rfl rfl rfl, fun _ _ => ⟨rfl, rfl⟩, ⟨_, _, hev, rfl⟩, rfl, rfl, rfl, rfl⟩
  | read =>
    obtain ⟨g, h, l, ev, rx, -, hev, hread⟩ := readOp_wf hc p s
    exact ⟨_, hread, sstAtRest_of_sent rfl rfl rfl rfl rfl, fun _ _ => ⟨rfl, rfl⟩, ⟨_, _, hev, rfl⟩, rfl, rfl, rfl, rfl⟩
  | wReset | wSelClk | wClkCfg | wSelSetup | wSetupCfg | wRdData | wFill => exact ⟨_, rfl, seqSend_sends ..⟩

/-- An instruction that sends no byte leaves the pins, SST, SEQ and the trace alone. -/
theorem execWith_pinsKept (h : bytesOf c i = []) (ht : execWith c p i s = .next t) : PinsKept s t := by
  cases i with
  | nop | fmt v =>
    cases ht
    rfl
  | cond => obtain ⟨r, -, rfl⟩ | ⟨-, rfl⟩ := condOp_next ht <;> rfl
  | tare => obtain ⟨q, -, rfl⟩ | ⟨-, rfl⟩ := execTare_next ht <;> rfl
  | line => obtain ⟨px, vx, -, -, rfl⟩ | ⟨-, rfl⟩ | ⟨-, -, rfl⟩ := lineOp_next ht <;> rfl
  | xfer | init | read | wReset | wSelClk | wClkCfg | wSelSetup | wSetupCfg | wRdData | wFill => cases h

/-- Everything an instruction can do on the wire side: send its bytes, or nothing. -/
theorem execWith_sends_or_pinsKept (hc : c.wf = true) (ht : execWith c p i s = .next t) :
    Sends (bytesOf c i) s t ∨ (bytesOf c i = [] ∧ PinsKept s t) := by
  by_cases h : bytesOf c i = []
  · exact .inr ⟨h, execWith_pinsKept h ht⟩
  · obtain ⟨t', ht', hsends⟩ := execWith_sends hc p h s
    cases ht'.symm.trans ht
    exact .inl hsends

/-- The pending calls are no operation's. -/
theorem execWith_calls (hc : c.wf = true) (ht : execWith c p i s = .next t) : t.calls = s.calls := by
  obtain hsends | ⟨-, hkept⟩ := execWith_sends_or_pinsKept hc ht
  · exact hsends.calls
  · exact hkept.calls

/-- The registers of GOP and DFMT change by a COND with a sample, a TARE with an unbiased reading or a LINE with both
readings, and by nothing else. -/
theorem execWith_data (hc : c.wf = true) (ht : execWith c p i s = .next t) :
    DataKept s t
      ∨ (i = .cond ∧ ∃ r, s.raw = some r ∧ t = latch c r s)
      ∨ (i = .tare ∧ ∃ q, s.unb = some q ∧ t = { s with bias := q })
      ∨ (i = .line ∧ ∃ px vx, t = { s with line := (lineChars c px vx).map some }) := by
  obtain hsends | ⟨h, -⟩ := execWith_sends_or_pinsKept hc ht
  · exact .inl hsends.data
  cases i with
  | nop | fmt v =>
    cases ht
    exact .inl rfl
  | cond =>
    obtain ⟨r, hr, rfl⟩ | ⟨-, rfl⟩ := condOp_next ht
    · exact .inr (.inl ⟨rfl, r, hr, rfl⟩)
    · exact .inl rfl
  | tare =>
    obtain ⟨q, hq, rfl⟩ | ⟨-, rfl⟩ := execTare_next ht
    · exact .inr (.inr (.inl ⟨rfl, q, hq, rfl⟩))
    · exact .inl rfl
  | line =>
    obtain ⟨px, vx, -, -, rfl⟩ | ⟨-, rfl⟩ | ⟨-, -, rfl⟩ := lineOp_next ht
    · exact .inr (.inr (.inr ⟨rfl, px, vx, rfl⟩))
    · exact .inl rfl
    · exact .inl rfl
  | xfer | init | read | wReset | wSelClk | wClkCfg | wSelSetup | wSetupCfg | wRdData | wFill => cases h

/-- The register holding `none` that makes an instruction refuse, where there is one (log entry 5). -/
def unwritten : Instr → State → Option Reg
  | .cond, s => if s.raw = none then some .raw else none
  | .tare, s => if s.unb = none then some .unb else none
  | .line, s => if s.px10 = none then some .px10 else if s.vx10 = none then some .vx10 else none
  | _, _ => none

theorem unwritten_cond (s : State) : unwritten .cond s = if s.raw = none then some .raw else none := rfl

theorem unwritten_tare (s : State) : unwritten .tare s = if s.unb = none then some .unb else none := rfl

theorem unwritten_line (s : State) : unwritten .line s =
    if s.px10 = none then some .px10 else if s.vx10 = none then some .vx10 else none := rfl

/-- The instructions and states in which a register holding `none` is read. -/
theorem unwritten_eq_none_iff : unwritten i s = none ↔
    ¬ ((i = .cond ∧ s.raw = none) ∨ (i = .tare ∧ s.unb = none) ∨ (i = .line ∧ (s.px10 = none ∨ s.vx10 = none))) := by
  cases i with
  | cond => simp [unwritten_cond]
  | tare => simp [unwritten_tare]
  | line =>
    rw [unwritten_line]
    split_ifs with hp hv <;> simp [*]
  | nop | xfer | init | read | fmt | wReset | wSelClk | wClkCfg | wSelSetup | wSetupCfg | wRdData | wFill =>
    exact iff_of_true rfl (by simp)

/-- The registers an instruction may find unwritten. -/
theorem mem_of_unwritten {r : Reg} (h : unwritten i s = some r) : r ∈ [Reg.raw, Reg.unb, Reg.px10, Reg.vx10] := by
  cases i with
  | cond =>
    rw [unwritten_cond] at h
    split_ifs at h
    cases h
    simp
  | tare =>
    rw [unwritten_tare] at h
    split_ifs at h
    cases h
    simp
  | line =>
    rw [unwritten_line] at h
    split_ifs at h <;> cases h <;> simp
  | nop | xfer | init | read | fmt | wReset | wSelClk | wClkCfg | wSelSetup | wSetupCfg | wRdData | wFill => cases h

theorem execTare_none (h : s.unb = none) : execTare s = .next (markRefused .unb s) := by
  cases s
  cases h
  rfl

theorem lineOp_px10_none (h : s.px10 = none) : lineOp c s = .next (markRefused .px10 s) := by
  cases s
  cases h
  rfl

theorem lineOp_vx10_none {px : Word16} (h : s.px10 = some px) (h' : s.vx10 = none) :
    lineOp c s = .next (markRefused .vx10 s) := by
  cases s
  cases h
  cases h'
  rfl

/-- An instruction that reads a register holding `none` writes nothing and marks the run. -/
theorem execWith_unwritten {r : Reg} (h : unwritten i s = some r) : execWith c p i s = .next (markRefused r s) := by
  cases i with
  | cond =>
    rw [unwritten_cond, Option.ite_none_right_eq_some] at h
    obtain ⟨hraw, ⟨⟩⟩ := h
    exact condOp_none hraw
  | tare =>
    rw [unwritten_tare, Option.ite_none_right_eq_some] at h
    obtain ⟨hunb, ⟨⟩⟩ := h
    exact execTare_none hunb
  | line =>
    rw [unwritten_line] at h
    split_ifs at h with hp hv <;> cases h
    · exact lineOp_px10_none hp
    · obtain ⟨px, hpx⟩ := Option.ne_none_iff_exists'.mp hp
      exact lineOp_vx10_none hpx hv
  | nop | xfer | init | read | fmt | wReset | wSelClk | wClkCfg | wSelSetup | wSetupCfg | wRdData | wFill => cases h

/-- Every instruction completes, and marks the run with the register it found unwritten, if any. -/
theorem execWith_completes (hc : c.wf = true) (p : Peer) (i : Instr) (s : State) :
    ∃ t, execWith c p i s = .next t ∧ t.refused = s.refused ++ (unwritten i s).toList := by
  cases hu : unwritten i s with
  | some r => exact ⟨_, execWith_unwritten hu, rfl⟩
  | none =>
    rw [Option.toList_none, List.append_nil]
    by_cases h : bytesOf c i = []
    · rw [unwritten_eq_none_iff] at hu
      cases i with
      | nop | fmt v => exact ⟨_, rfl, rfl⟩
      | cond =>
        obtain ⟨r, hr⟩ := Option.ne_none_iff_exists'.mp fun e => hu (.inl ⟨rfl, e⟩)
        exact ⟨_, condOp_some hr, rfl⟩
      | tare =>
        obtain ⟨q, hq⟩ := Option.ne_none_iff_exists'.mp fun e => hu (.inr (.inl ⟨rfl, e⟩))
        exact ⟨_, execTare_some hq, rfl⟩
      | line =>
        obtain ⟨px, hpx⟩ := Option.ne_none_iff_exists'.mp fun e => hu (.inr (.inr ⟨rfl, .inl e⟩))
        obtain ⟨vx, hvx⟩ := Option.ne_none_iff_exists'.mp fun e => hu (.inr (.inr ⟨rfl, .inr e⟩))
        exact ⟨_, lineOp_some hpx hvx, rfl⟩
      | xfer | init | read | wReset | wSelClk | wClkCfg | wSelSetup | wSetupCfg | wRdData | wFill => cases h
    · obtain ⟨t, ht, hsends⟩ := execWith_sends hc p h s
      exact ⟨t, ht, hsends.refused⟩

end Sys2Proof.Machine
end

section
/-! PROOFS. DFMT: FMT in closed form (spec/43_formatter.md rules R172 to R179), and the display line (rules R181 to
R183). -/

namespace Sys2Proof.Machine

/-- The decimal numeral of a number, without leading zeros, in the character codes of decision D12. -/
def numeral (n : Nat) : List Byte := (Nat.toDigits 10 n).map fun ch => BitVec.ofNat 8 ch.toNat

/-- The model's digit characters are the library's. -/
theorem ofNat_digitChar {k : Nat} (h : k < 10) : BitVec.ofNat 8 k.digitChar.toNat = digit k := by
  interval_cases k <;> rfl

/-- A digit of the library's numeral, as a numeral of its own. -/
theorem map_digitChar {k : Nat} (h : k < 10) :
    [k.digitChar].map (fun ch => BitVec.ofNat 8 ch.toNat) = [digit k] := by
  rw [List.map_cons, List.map_nil, ofNat_digitChar h]

theorem numeral_of_lt {n : Nat} (h : n < 10) : numeral n = [digit n] :=
  (congrArg _ (Nat.toDigits_of_lt_base h)).trans (map_digitChar h)

theorem numeral_of_le {n : Nat} (h : 10 ≤ n) : numeral n = numeral (n / 10) ++ [digit (n % 10)] := by
  rw [← map_digitChar (Nat.mod_lt n (by decide))]
  exact (congrArg _ (Nat.toDigits_of_base_le (by decide) h)).trans List.map_append

/-- The remainder and the digits after the divisors down to `d`: the numeral of what `d` divides out of `m`. -/
def digitsDownTo (m d : Nat) : Nat × List Byte := if d ≤ m then (m % d, numeral (m / d)) else (m, [])

theorem digitsDownTo_of_le {m d : Nat} (h : d ≤ m) : digitsDownTo m d = (m % d, numeral (m / d)) := if_pos h

theorem digitsDownTo_of_lt {m d : Nat} (h : m < d) : digitsDownTo m d = (m, []) := if_neg (by omega)

/-- One divisor of rule R173 appends one digit of the numeral. -/
theorem emitDigit_digitsDownTo (m : Nat) {d : Nat} (hd : 0 < d) :
    emitDigit m (digitsDownTo m (10 * d)) d = digitsDownTo m d := by
  unfold emitDigit
  by_cases h : d ≤ m
  · rw [if_pos h, digitsDownTo_of_le h]
    by_cases h10 : 10 * d ≤ m
    · have hq : 10 ≤ m / d := (Nat.le_div_iff_mul_le hd).mpr h10
      rw [digitsDownTo_of_le h10, numeral_of_le hq, Nat.div_div_eq_div_mul, Nat.mul_comm d 10, Nat.mod_mul_left_mod,
        Nat.mod_mul_left_div_self]
    · have hq : m / d < 10 := (Nat.div_lt_iff_lt_mul hd).mpr (by omega)
      rw [digitsDownTo_of_lt (by omega), numeral_of_lt hq, List.nil_append]
  · rw [if_neg h, digitsDownTo_of_lt (by omega), digitsDownTo_of_lt (by omega)]

/-- All four divisors: the last digit remains, the others have been emitted. -/
theorem digitsOf_eq {m : Nat} (h : m < 100000) : digitsOf m = digitsDownTo m 10 := by
  have h0 : digitsDownTo m (10 * 10000) = (m, []) := digitsDownTo_of_lt (by omega)
  simp only [digitsOf, divisors, List.foldl_cons, List.foldl_nil]
  rw [← h0, emitDigit_digitsDownTo m (by decide), emitDigit_digitsDownTo m (d := 1000) (by decide),
    emitDigit_digitsDownTo m (d := 100) (by decide), emitDigit_digitsDownTo m (d := 10) (by decide)]

theorem magnitude_eq (v : Word16) : magnitude v = v.toInt.natAbs := rfl

/-- The magnitude is unsigned: at most 32768 (decision D10). -/
theorem magnitude_le (v : Word16) : magnitude v ≤ 32768 := by
  have hlo := BitVec.le_toInt v
  have hhi := BitVec.toInt_lt (x := v)
  rw [magnitude_eq]
  omega

/-- FMT's characters in closed form. -/
theorem fmtChars_eq (v : Word16) :
    fmtChars v = signChar v :: (numeral (magnitude v / 10) ++ [charPoint, digit (magnitude v % 10)]) := by
  have hm := magnitude_le v
  simp only [fmtChars, digitsOf_eq (m := magnitude v) (by omega)]
  by_cases h : magnitude v < 10
  · rw [if_pos h, digitsDownTo_of_lt h, Nat.div_eq_of_lt h, Nat.mod_eq_of_lt h, numeral_of_lt (by decide)]
    rfl
  · rw [if_neg h, digitsDownTo_of_le (by omega)]
    rfl

/-- The instruction FMT hands its characters to the HOST and writes no register. -/
theorem exec_fmt (v : Word16) (s : State) :
    exec (.fmt v) s = .next { s with returned := s.returned ++ [Returned.chars (fmtChars v)] } := rfl

/-- Settles O35. -/
theorem fmtClosedForm : Obligations.FmtClosedForm := by
  intro v s
  rw [exec_fmt, fmtChars_eq]
  rfl

/-- Settles O34: the formatter evaluated on the four values. -/
theorem fmtDocumentExamples : Obligations.FmtDocumentExamples := by
  unfold Obligations.FmtDocumentExamples
  decide

/-- The number of digits of a numeral, by its size. -/
theorem numeral_length {n : Nat} (h : n < 10000) :
    (numeral n).length = if n < 10 then 1 else if n < 100 then 2 else if n < 1000 then 3 else 4 := by
  split_ifs with h1 h2 h3
  · simp [numeral_of_lt h1]
  · simp [numeral_of_le (n := n) (by omega), numeral_of_lt (n := n / 10) (by omega)]
  · simp [numeral_of_le (n := n) (by omega), numeral_of_le (n := n / 10) (by omega),
      numeral_of_lt (n := n / 10 / 10) (by omega)]
  · simp [numeral_of_le (n := n) (by omega), numeral_of_le (n := n / 10) (by omega),
      numeral_of_le (n := n / 10 / 10) (by omega), numeral_of_lt (n := n / 10 / 10 / 10) (by omega)]

/-- Settles O36: three characters beside the numeral of the magnitude's tens. -/
theorem fieldLengths : Obligations.FieldLengths := by
  intro v
  have hm := magnitude_le v
  rw [fmtChars_eq, List.length_cons, List.length_append, numeral_length (by omega)]
  rw [magnitude_eq] at *
  simp only [List.length_cons, List.length_nil]
  split_ifs <;> omega

/-- A field has 4 to 7 characters. -/
theorem fmtChars_length (v : Word16) : 4 ≤ (fmtChars v).length ∧ (fmtChars v).length ≤ 7 := by
  rw [fieldLengths v]
  split_ifs <;> decide

/-- Settles O33: FMT's arm of the decoder takes the operand, and the characters are those of `fmtChars_length`. -/
theorem fmtTotal : Obligations.FmtTotal := by
  refine ⟨fun w h => ?_, fun v s => ⟨fmtChars v, exec_fmt v s, fmtChars_length v⟩, fun s => ?_⟩
  · have ho : operand w = w.setWidth 16 := by
      apply BitVec.eq_of_toNat_eq
      rw [operand_toNat, BitVec.toNat_setWidth]
    simp [decodeCmd_rows, h, ho]
  · rw [exec_fmt, fmtDocumentExamples.2.2.1]

/-- A digit character reads back to its value. -/
theorem digitValue_digit {k : Nat} (h : k < 10) : digitValue (digit k) = k := by
  interval_cases k <;> rfl

/-- A digit is no point. -/
theorem digit_ne_charPoint {k : Nat} (h : k < 10) : digit k ≠ charPoint := by
  interval_cases k <;> decide

/-- Reading a digit goes on with it as the next digit of the number. -/
theorem readInt_digit {k : Nat} (h : k < 10) (n : Nat) (cs : List Byte) :
    readInt n (digit k :: cs) = readInt (10 * n + k) cs := by
  refine Eq.trans (if_neg (digit_ne_charPoint h)) ?_
  rw [digitValue_digit h]

/-- Reading stops at the point. -/
theorem readInt_charPoint (n : Nat) (cs : List Byte) : readInt n (charPoint :: cs) = (n, cs) :=
  if_pos rfl

/-- Reading a numeral gives its number, by induction from its last digit. -/
theorem readInt_numeral (n : Nat) (cs : List Byte) : readInt 0 (numeral n ++ cs) = readInt n cs := by
  induction n using Nat.strong_induction_on generalizing cs with
  | _ n ih =>
    by_cases h : n < 10
    · rw [numeral_of_lt h, List.singleton_append, readInt_digit h, Nat.mul_zero, Nat.zero_add]
    · rw [numeral_of_le (not_lt.mp h), List.append_assoc, ih (n / 10) (by omega), List.singleton_append,
        readInt_digit (Nat.mod_lt n (by decide)), Nat.div_add_mod]

/-- The minus sign stands for the negative values. -/
theorem signChar_eq_minus_iff (v : Word16) : signChar v = charMinus ↔ v.toInt < 0 := by
  unfold signChar
  split_ifs with h
  · simp [h]
  · simp only [h, iff_false]
    decide

/-- A field reads back to the value it was made from (rule R179). -/
theorem fieldValue_fmtChars (v : Word16) : fieldValue (fmtChars v) = v.toInt := by
  have hmag : magnitude v = v.toInt.natAbs := rfl
  rw [fmtChars_eq]
  simp only [fieldValue, readInt_numeral, readInt_charPoint, List.map_cons, List.map_nil, List.foldl_cons,
    List.foldl_nil, digitValue_digit (Nat.mod_lt _ (by decide : 10 > 0)), signChar_eq_minus_iff]
  split_ifs <;> omega

/-- Settles O37: "-0.0" would read back to 0, whose sign is a space. -/
theorem fieldReadsBack : Obligations.FieldReadsBack := by
  refine fun v => ⟨fieldValue_fmtChars v, fun hzero => ?_⟩
  have hval : v.toInt = 0 := (fieldValue_fmtChars v).symm.trans (congrArg fieldValue hzero)
  rw [fmtChars_eq, List.cons.injEq] at hzero
  exact absurd ((signChar_eq_minus_iff v).mp hzero.1) (by omega)

/-- The fixed widths and the columns of a build the model accepts. -/
theorem columns_wf {c : Cfg} (h : c.wf = true) : c.lineW = 15 ∧ c.pCol + 7 ≤ c.vCol ∧ c.vCol + 7 ≤ 15 := by
  simp only [Cfg.wf, Bool.and_eq_true, decide_eq_true_eq] at h
  omega

/-- Every byte of the line of a build the model accepts: inside the power field, inside the voltage field, the
terminator, or a space. -/
theorem lineChars_getElem {c : Cfg} (hc : c.wf = true) (px vx : Word16) (i : Nat) (hi : i < 16) :
    (lineChars c px vx)[i] =
      if h : c.vCol ≤ i ∧ i < c.vCol + (fmtChars vx).length then (fmtChars vx)[i - c.vCol]
      else if h : c.pCol ≤ i ∧ i < c.pCol + (fmtChars px).length then (fmtChars px)[i - c.pCol]
      else if i = 15 then charTerminator else charSpace := by
  rw [lineChars, putChars_getElem, putChars_getElem, blankLine_getElem, (columns_wf hc).1]
  simp only [eq_comm]

/-- Settles O39: each position is looked up in the fields, which do not overlap. -/
theorem lineLayoutAnyColumns : Obligations.LineLayoutAnyColumns := by
  intro c s px vx hc hp hv
  obtain ⟨-, hpv, hv15⟩ := columns_wf hc
  have hpl := (fmtChars_length px).2
  have hvl := (fmtChars_length vx).2
  refine ⟨lineChars c px vx, lineOp_some hp hv, fun j x hj => ?power, fun j x hj => ?voltage, ?terminator,
    fun i hi hnp hnv => ?space⟩
  case power =>
    obtain ⟨hlt, rfl⟩ := List.getElem?_eq_some_iff.mp hj
    rw [Vector.getElem?_eq_getElem (by omega), lineChars_getElem hc, dif_neg (by omega), dif_pos (by omega)]
    simp
  case voltage =>
    obtain ⟨hlt, rfl⟩ := List.getElem?_eq_some_iff.mp hj
    rw [Vector.getElem?_eq_getElem (by omega), lineChars_getElem hc, dif_pos (by omega)]
    simp
  case terminator =>
    rw [Vector.getElem?_eq_getElem (by omega), lineChars_getElem hc, dif_neg (by omega), dif_neg (by omega), if_pos rfl]
    rfl
  case space =>
    rw [Vector.getElem?_eq_getElem (by omega), lineChars_getElem hc, dif_neg (by omega), dif_neg (by omega),
      if_neg (by omega)]
    rfl

/-- Settles O38: the columns of the build are 0 and 8. -/
theorem lineLayout : Obligations.LineLayout := by
  intro s px vx hp hv
  have hpl := (fmtChars_length px).2
  have hvl := (fmtChars_length vx).2
  obtain ⟨L, hline, hpower, hvoltage, hterm, hspace⟩ := lineLayoutAnyColumns build s px vx build_wf hp hv
  have hpcol : build.pCol = 0 := rfl
  have hvcol : build.vCol = 8 := rfl
  rw [hpcol] at hpower hspace
  rw [hvcol] at hvoltage hspace
  refine ⟨L, hline, fun i hi => ?_⟩
  split_ifs with h15 hp' h8
  · rw [h15, hterm]
  · rw [List.getD_eq_getElem _ _ hp']
    simpa using hpower i _ (List.getElem?_eq_getElem hp')
  · exact hspace i (by omega) (by omega) (by omega)
  · by_cases hv' : i - 8 < (fmtChars vx).length
    · rw [List.getD_eq_getElem _ _ hv']
      simpa [show 8 + (i - 8) = i by omega] using hvoltage (i - 8) _ (List.getElem?_eq_getElem hv')
    · rw [List.getD_eq_default _ _ (by omega)]
      exact hspace i (by omega) (by omega) (by omega)

end Sys2Proof.Machine
end

section
/-! PROOFS. GOP: COND in any build and in integers (spec/42_pipeline.md rules R147 to R151), TARE (rules R152, R153), and
one Running iteration of the HOST (spec/60_exceptions.md rule R220). -/

namespace Sys2Proof.Machine

/-- Every build the model accepts has the scale and the range of the documented defaults. -/
theorem range_wf {c : Cfg} (h : c.wf = true) : c.scale = 10 ∧ c.sxMin = -32768 ∧ c.sxMax = 32767 := by
  simp only [Cfg.wf, Bool.and_eq_true, decide_eq_true_eq] at h
  omega

/-- Saturation is that of the documented defaults. -/
theorem sat16_wf {c : Cfg} (h : c.wf = true) (z : Int) : sat16 c z = sat16 build z := by
  obtain ⟨-, hmin, hmax⟩ := range_wf h
  rw [sat16, limit, hmin, hmax]
  rfl

/-- The range flag is that of the documented defaults. -/
theorem outOfRange_wf {c : Cfg} (h : c.wf = true) (z : Int) :
    outOfRange c z = decide (z < -32768 ∨ 32767 < z) := by
  obtain ⟨-, hmin, hmax⟩ := range_wf h
  rw [outOfRange, hmin, hmax]

/-- Scaled readings truncate ten times the reading. -/
theorem scaled_wf {c : Cfg} (h : c.wf = true) (q : Rat) : scaled c q = trunc (q * 10) :=
  congrArg (fun k : Nat => trunc (q * k)) (range_wf h).1

theorem scaledPower_wf {c : Cfg} (h : c.wf = true) (r : Word16) (bias : Rat) :
    scaledPower c r bias = trunc ((unbiased c r - bias) * 10) := scaled_wf h _

theorem scaledVoltage_wf {c : Cfg} (h : c.wf = true) (r : Word16) : scaledVoltage c r = trunc (voltTapOf c r * 10) :=
  scaled_wf h _

/-- The stage the voltage field shows. -/
theorem voltTapOf_eq (c : Cfg) (r : Word16) :
    voltTapOf c r = if c.voltTap = .s1 then voltage c r else measured c r := by
  unfold voltTapOf
  cases c.voltTap <;> rfl

section latch
variable (c : Cfg) (r : Word16) (s : State)
@[simp] theorem latch_bias : (latch c r s).bias = s.bias := rfl
@[simp] theorem latch_px10 : (latch c r s).px10 = some (sat16 c (scaledPower c r s.bias)) := rfl
@[simp] theorem latch_vx10 : (latch c r s).vx10 = some (sat16 c (scaledVoltage c r)) := rfl
@[simp] theorem latch_poor : (latch c r s).poor = outOfRange c (scaledPower c r s.bias) := rfl
@[simp] theorem latch_returned : (latch c r s).returned = s.returned := rfl
end latch

/-- Settles O58: COND is one latch, and its readings are the truncations of `trunc_spec`, saturated. -/
theorem condAnyBuild : Obligations.CondAnyBuild := by
  intro c p s r hc hr
  refine ⟨scaledPower c r s.bias, scaledVoltage c r, sat16 c (scaledPower c r s.bias), sat16 c (scaledVoltage c r),
    (condOp_some hr).trans ?_, ?_, ?_, ?_, ?_⟩
  · rw [latch, outOfRange_wf hc, outOfRange_wf hc]
    rfl
  · rw [scaledPower_wf hc]
    exact trunc_spec _
  · rw [scaledVoltage_wf hc, ← voltTapOf_eq]
    exact trunc_spec _
  · rw [sat16_wf hc, sat16_toInt]
  · rw [sat16_wf hc, sat16_toInt]

/-- Settles O25: the build shows stage 1. -/
theorem condScaledReadings : Obligations.CondScaledReadings := fun s r hr =>
  condAnyBuild build peer s r build_wf hr

/-- A reading inside the range is held as it is. -/
theorem sat16_toNat {n : Nat} (h : n ≤ 32767) : (sat16 build n).toNat = n := by
  have hint := sat16_toInt n
  rw [BitVec.toInt_eq_toNat_cond] at hint
  split_ifs at hint <;> omega

/-- A voltage reading of the build is never out of range: full scale is 12349. -/
theorem scaledVoltage_build (r : Word16) : scaledVoltage build r = ((r.toNat * 12350 / 65536 : Nat) : Int) := by
  have hq : voltage build r * 10 = ((r.toNat * 12350 : Nat) : Rat) / (65536 : Nat) := by
    rw [voltage_build]
    push_cast
    ring
  rw [scaledVoltage_wf build_wf, show voltTapOf build r = voltage build r from rfl, hq,
    trunc_natDiv _ _ (by decide)]

/-- VOOR of the build is never set (rule R151). -/
theorem outOfRange_scaledVoltage_build (r : Word16) : outOfRange build (scaledVoltage build r) = false := by
  have hr := r.isLt
  rw [scaledVoltage_build, outOfRange_build, decide_eq_false_iff_not]
  omega

/-- The power reading of the build under the bias of a raw code, in integers. -/
theorem scaledPower_build (r k : Word16) :
    scaledPower build r (unbiased build k) = Int.tdiv (((r.toNat : Int) - k.toNat) * 574275) 753664 := by
  have hq : (unbiased build r - unbiased build k) * 10
      = ((((r.toNat : Int) - k.toNat) * 574275 : Int) : Rat) / (753664 : Nat) := by
    rw [unbiased_build, unbiased_build]
    push_cast
    ring
  rw [scaledPower_wf build_wf, hq, trunc_div _ _ (by decide)]
  rfl

/-- Where a quotient rounded toward zero leaves the 16-bit range, for the factor of the power reading (rule R151). -/
theorem tdiv_outOfRange_iff (d : Int) :
    (Int.tdiv (d * 574275) 753664 < -32768 ∨ 32767 < Int.tdiv (d * 574275) 753664) ↔ (43004 ≤ d ∨ d ≤ -43006) := by
  rcases le_total 0 d with hd | hd
  · rw [Int.tdiv_eq_ediv_of_nonneg (by omega)]
    omega
  · obtain ⟨e, rfl⟩ : ∃ e, d = -e := ⟨-d, by omega⟩
    rw [neg_mul, Int.neg_tdiv, Int.tdiv_eq_ediv_of_nonneg (by omega)]
    omega

/-- Settles O26: the two readings in integers, and the edges where the power leaves its range. -/
theorem condIntegerForm : Obligations.CondIntegerForm := by
  intro s r k hr hbias
  have hr16 := r.isLt
  rw [← unbiased_build] at hbias
  refine ⟨latch build r s, _, _, condOp_some hr, rfl, rfl, ?_, ?_, ?_, outOfRange_scaledVoltage_build r⟩
  · rw [sat16_toInt, hbias, scaledPower_build]
  · rw [scaledVoltage_build, sat16_toNat (by omega)]
  · rw [latch_poor, outOfRange_build, hbias, scaledPower_build, decide_eq_decide]
    exact tdiv_outOfRange_iff _

/-- Settles O27: stage 2 with the default constants is a quotient of natural numbers. -/
theorem condVoltageTapS2 : Obligations.CondVoltageTapS2 := by
  intro s r hr
  have hr16 := r.isLt
  have hzv : scaledVoltage { Cfg.default with voltTap := .s2 } r = ((r.toNat * 30875 / 376832 : Nat) : Int) := by
    have hq : measured build r * 10 = ((r.toNat * 30875 : Nat) : Rat) / (376832 : Nat) := by
      rw [measured_build]
      push_cast
      ring
    rw [← trunc_natDiv _ _ (by decide), ← hq]
    exact scaled_wf build_wf _
  refine ⟨_, _, condOp_some hr, rfl, ?_, ?_⟩
  · rw [hzv]
    exact sat16_toNat (by omega)
  · refine (congrArg (outOfRange build) hzv).trans ?_
    rw [outOfRange_build, decide_eq_false_iff_not]
    omega

/-- Settles O28: the voltage path of `latch` reads the raw code alone. -/
theorem voltageFreeOfBias : Obligations.VoltageFreeOfBias := by
  intro c s s' t t' r hr hr' ht ht'
  rw [condOp_some hr] at ht
  rw [condOp_some hr'] at ht'
  cases ht
  cases ht'
  exact ⟨rfl, rfl, rfl, rfl, rfl⟩

/-- Settles O30. -/
theorem tareSetsBias : Obligations.TareSetsBias := fun _ _ h => execTare_some h

/-- A sample read under its own bias displays no power. -/
theorem scaledPower_self (c : Cfg) (r : Word16) : scaledPower c r (unbiased c r) = 0 :=
  Eq.trans (congrArg (scaled c) (sub_self _)) (congrArg trunc (zero_mul _))

/-- COND under the sample's own bias displays zero. -/
theorem latch_self {s : State} {r : Word16} (h : s.bias = unbiased build r) :
    (latch build r s).disp = some 0 ∧ (latch build r s).px10 = some 0 ∧ (latch build r s).poor = false := by
  rw [latch_disp, latch_px10, latch_poor, h, scaledPower_self, sub_self]
  exact ⟨rfl, rfl, rfl⟩

/-- TARE and COND of a sample already conditioned: its unbiased reading is the bias COND subtracts. -/
theorem execAll_tare_cond {s : State} {r : Word16} (hraw : s.raw = some r) (hunb : s.unb = some (unbiased build r)) :
    execAll [.tare, .cond] s = .next (latch build r { s with bias := unbiased build r }) := by
  have hcond : condOp build { s with bias := unbiased build r } = .next (latch build r _) := condOp_some hraw
  simp only [execAll_cons, execAll_nil, exec_tare, exec_cond, execTare_some hunb, andThen_next, hcond]

/-- Settles O32: after the first TARE the bias is the sample's own, and TARE copies the same UNB again. -/
theorem calibrationIdempotent : Obligations.CalibrationIdempotent := by
  intro s r hr
  have hfirst : execAll [.cond, .tare, .cond] s
      = .next (latch build r { latch build r s with bias := unbiased build r }) := by
    rw [execAll_cons, exec_cond, condOp_some hr, andThen_next]
    exact execAll_tare_cond hr rfl
  obtain ⟨t, ht⟩ : ∃ t, t = latch build r { latch build r s with bias := unbiased build r } := ⟨_, rfl⟩
  have hraw : t.raw = some r := by rw [ht]; exact hr
  have hunb : t.unb = some (unbiased build r) := by rw [ht, latch_unb]
  have hbias : t.bias = unbiased build r := by rw [ht, latch_bias]
  have hself : t.disp = some 0 ∧ t.px10 = some 0 ∧ t.poor = false := ht ▸ latch_self rfl
  obtain ⟨hdisp, hpx, hpoor⟩ := hself
  have hagain : execAll [.tare, .tare, .cond] t = .next (latch build r { t with bias := unbiased build r }) := by
    rw [execAll_cons, exec_tare, execTare_some hunb, andThen_next]
    exact execAll_tare_cond hraw hunb
  exact ⟨t, _, ht ▸ hfirst, hdisp, hpx, hpoor, hbias, hagain, (latch_self rfl).1, hbias.symm⟩

/-- The instruction LINE is the operation of the build. -/
theorem exec_line (s : State) : exec .line s = lineOp build s := rfl

/-- READ completes with a sample handed to the HOST and leaves the bias and the marks. -/
theorem exec_read_spec (s : State) : ∃ t r, exec .read s = .next t ∧ t.raw = some r ∧ t.bias = s.bias
    ∧ t.returned = s.returned ++ [Returned.sample r] ∧ t.refused = s.refused := by
  obtain ⟨g, h, l, ev, rx, -, -, hread⟩ := readOp_wf build_wf peer s
  exact ⟨_, rawOf h l, (exec_read s).trans hread, rfl, rfl, rfl, rfl⟩

/-- The operations of one Running iteration up to the display, from any state: the readings of the sample, formatted and
shown, with no mark on the run. -/
theorem measureAndFormat_spec (s : State) : ∃ t r px vx, measureAndFormat s = .next t ∧ t.raw = some r
    ∧ t.unb = some (unbiased build r) ∧ t.disp = some (unbiased build r - s.bias) ∧ t.bias = s.bias
    ∧ px = sat16 build (scaledPower build r s.bias) ∧ vx = sat16 build (scaledVoltage build r)
    ∧ t.px10 = some px ∧ t.vx10 = some vx ∧ t.line = (lineChars build px vx).map some
    ∧ t.returned = s.returned ++ [Returned.sample r, Returned.chars (fmtChars px), Returned.chars (fmtChars vx)]
    ∧ t.refused = s.refused := by
  obtain ⟨u, r, hread, hraw, hbias, hret, href⟩ := exec_read_spec s
  have hcond : execAll [.read, .cond] s = .next (latch build r u) := by
    rw [execAll_cons, hread, andThen_next, execAll_cons, exec_cond, condOp_some hraw, andThen_next, execAll_nil]
  obtain ⟨px, hpx⟩ : ∃ px, px = sat16 build (scaledPower build r s.bias) := ⟨_, rfl⟩
  obtain ⟨vx, hvx⟩ : ∃ vx, vx = sat16 build (scaledVoltage build r) := ⟨_, rfl⟩
  have hpx10 : (latch build r u).px10 = some px := by rw [latch_px10, hbias, hpx]
  have hvx10 : (latch build r u).vx10 = some vx := by rw [latch_vx10, hvx]
  refine ⟨{ latch build r u with
      line := (lineChars build px vx).map some
      returned := u.returned ++ [Returned.chars (fmtChars px), Returned.chars (fmtChars vx)] },
    r, px, vx, ?_, hraw, latch_unb build r u, ?_, hbias, hpx, hvx, hpx10, hvx10, rfl, ?_, href⟩
  · simp only [measureAndFormat, hcond, andThen_next, hpx10, hvx10, fmtRegister, exec_fmt, exec_line, lineOp,
      latch_returned, List.append_assoc, List.cons_append, List.nil_append]
  · exact (latch_disp build r u).trans (by rw [hbias])
  · simp [hret]

/-- With the button up an iteration ends at the display. -/
theorem acquire_up {s t : State} (h : measureAndFormat s = .next t) :
    acquire true s = .next
      { core := t, shown := t.line, shownOn := build.lineNo.val + 1, buzzer := [], awaitRelease := false } := by
  delta acquire
  rw [h]
  rfl

/-- A press sounds the buzzer and tares. -/
theorem acquire_pressed {s t : State} {q : Rat} (h : measureAndFormat s = .next t) (hunb : t.unb = some q) :
    acquire false s = .next
      { core := { t with bias := q }
        shown := t.line
        shownOn := build.lineNo.val + 1
        buzzer := [false, true]
        awaitRelease := true } := by
  delta acquire
  simp only [h, exec_tare, execTare_some hunb]
  rfl

/-- Settles O50: the pass is `measureAndFormat_spec`, and on a press TARE finds the UNB of its COND. -/
theorem acquisitionPassCompletes : Obligations.AcquisitionPassCompletes := by
  intro button s
  obtain ⟨t, r, px, vx, ht, hraw, hunb, hdisp, hbias, hpx, hvx, hpx10, hvx10, hline, hret, href⟩ :=
    measureAndFormat_spec s
  cases button with
  | true =>
    exact ⟨_, r, px, vx, acquire_up ht, hraw, hunb, hdisp, hpx, hvx, hpx10, hvx10, hline, rfl, hret, href,
      fun _ => ⟨hbias, rfl, rfl⟩, nofun⟩
  | false =>
    exact ⟨_, r, px, vx, acquire_pressed ht hunb, hraw, hunb, hdisp, hpx, hvx, hpx10, hvx10, hline, rfl, hret, href,
      nofun, fun _ => ⟨rfl, rfl, rfl⟩⟩

end Sys2Proof.Machine
end

section
/-! PROOFS. One step of the machine: its cases, the rows of the micro-step table, and what every step of any accepted
build appends and keeps. -/

namespace Sys2Proof.Machine

variable {c : Cfg} {p : Peer} {i : Instr} {s t u : State}

/-- With nothing running, `stepWith` makes the HOST's next call. -/
theorem stepWith_call {w : CmdWord} {rest : List CmdWord} (h : s.phase = .idle) (h' : s.sq = .none)
    (h'' : s.calls = w :: rest) : stepWith c p s = execWith c p (decodeCmd w) { s with calls := rest } :=
  stepOver_call h h' h''

/-- Settles O52: the three cases of `stepOver` in which no byte is half exchanged. -/
theorem stepWithRunsDecoded : Obligations.StepWithRunsDecoded := by
  refine fun c p => ⟨fun s w rest i h h' h'' hd => ?_, fun s b i h h' h'' hd => stepOver_byte h h' h'' hd,
    fun s h h' h'' => stepOver_wait h h' h''⟩
  rw [stepWith_call h h' h'']
  cases hd
  rfl

/-- Settles O2: `step` is `stepWith` of the build. -/
theorem stepRunsDecoded : Obligations.StepRunsDecoded := by
  have h := stepWithRunsDecoded build peer
  simp only [← step_eq_stepWith, ← exec_eq_execWith] at h
  exact h

/-- In an accepted build the instruction at a position sends the byte the table holds there. -/
theorem execWith_of_decodeWire (hc : c.wf = true) {sq : SeqId} {idx : Nat} {b : Byte}
    (h : decodeWire c sq idx b = .ok i) (p : Peer) (s : State) : execWith c p i s = .next (seqSend c p b s) := by
  obtain ⟨hi, hb⟩ := (decodeWire_eq_ok_iff).mp h
  obtain ⟨hlt, -⟩ := List.getElem?_eq_some_iff.mp hb
  cases sq with
  | none => cases hi
  | init =>
    rw [romOf_init_length_wf hc] at hlt
    rw [romOf, initRom_wf hc] at hb
    interval_cases idx <;> cases hi <;> cases hb <;> rfl
  | read =>
    rw [romOf_read_length_wf hc] at hlt
    rw [romOf, readRom_wf hc] at hb
    interval_cases idx <;> cases hi <;> cases hb <;> rfl

/-- A running sequence of an accepted build sends the byte its table holds at the position. -/
theorem stepWith_byte (hc : c.wf = true) {b : Byte} (h : s.phase = .idle) (h' : s.sq ≠ .none)
    (h'' : (romOf c s.sq)[s.idx.toNat]? = some b) : stepWith c p s = .next (seqSend c p b s) := by
  obtain ⟨i, hi⟩ := decodeWire_of_rom hc h''
  exact Eq.trans (stepOver_byte h h' h'' hi) (execWith_of_decodeWire hc hi p s)

/-- What a step of an accepted build does, by the state it is made in: it waits, makes the HOST's next call, sends the
next byte of the running sequence, ends the sequence, or goes on with a byte. -/
theorem stepWith_cases (hc : c.wf = true) (p : Peer) (s : State) :
    (s.phase = .idle ∧ s.sq = .none ∧ stepWith c p s = .next s)
      ∨ (∃ w rest, s.phase = .idle ∧ s.sq = .none
          ∧ stepWith c p s = execWith c p (decodeCmd w) { s with calls := rest })
      ∨ (∃ b, s.phase = .idle ∧ s.idx.toNat < (romOf c s.sq).length ∧ stepWith c p s = .next (seqSend c p b s))
      ∨ (s.phase = .idle ∧ s.sq ≠ .none ∧ (romOf c s.sq).length ≤ s.idx.toNat ∧ stepWith c p s = seqFinish s)
      ∨ (s.phase ≠ .idle ∧ stepWith c p s = microStep c p s) := by
  by_cases hphase : s.phase = .idle
  · by_cases hsq : s.sq = .none
    · cases hcalls : s.calls with
      | nil => exact .inl ⟨hphase, hsq, stepOver_wait hphase hsq hcalls⟩
      | cons w rest => exact .inr (.inl ⟨w, rest, hphase, hsq, stepWith_call hphase hsq hcalls⟩)
    · cases hrom : (romOf c s.sq)[s.idx.toNat]? with
      | none =>
        exact .inr (.inr (.inr (.inl ⟨hphase, hsq, List.getElem?_eq_none_iff.mp hrom, stepOver_end hphase hsq hrom⟩)))
      | some b =>
        obtain ⟨hlt, -⟩ := List.getElem?_eq_some_iff.mp hrom
        exact .inr (.inr (.inl ⟨b, hphase, hlt, stepWith_byte hc hphase hsq hrom⟩))
  · exact .inr (.inr (.inr (.inr ⟨hphase, stepOver_micro hphase⟩)))

/-! The rows of the micro-step table (spec/40_transceiver.md rule R103). -/

theorem microStep_lower (h : s.phase = .lower) : microStep c p s = .next (setPhase .drive (lowerSck s)) := by
  cases s
  cases h
  rfl

theorem microStep_drive {out : Byte} (h : s.phase = .drive) (h' : s.txb = some out) :
    microStep c p s = .next (setPhase .raise (driveSdo (out.getLsbD s.bitpos.toNat) s)) := by
  cases s
  cases h
  cases h'
  rfl

theorem microStep_drive_none (h : s.phase = .drive) (h' : s.txb = none) :
    microStep c p s = .next (markRefused .txb s) := by
  cases s
  cases h
  cases h'
  rfl

theorem microStep_raise (h : s.phase = .raise) : microStep c p s = .next (setPhase .wait (raiseSck s)) := by
  cases s
  cases h
  rfl

theorem microStep_wait (h : s.phase = .wait) : microStep c p s = .next (setPhase .sample (waitHalf s)) := by
  cases s
  cases h
  rfl

theorem microStep_sample (h : s.phase = .sample) (h' : s.bitpos ≠ 0) :
    microStep c p s = .next (setPhase .lower (setBitpos (s.bitpos - 1) (sampleSdi p s))) := by
  cases s
  cases h
  exact congrArg (andThen · _) (if_neg h')

theorem microStep_last (h : s.phase = .sample) (h' : s.bitpos = 0) :
    microStep c p s = byteDone c (setPhase .idle (sampleSdi p s)) := by
  cases s
  cases h
  exact congrArg (andThen · _) (if_pos h')

theorem byteDone_direct (h : s.sq = .none) : byteDone c s = returnRxb s := if_pos h

theorem byteDone_sequence (h : s.sq ≠ .none) : byteDone c s = .next (seqAdvance c s) := if_neg h

theorem returnRxb_none (h : rxbByte s.rxb = none) : returnRxb s = .next (markRefused .rxb s) := by
  delta returnRxb
  rw [h]
  rfl

theorem seqFinish_none (h : s.sq = .none) : seqFinish s = .next s := by
  cases s
  cases h
  rfl

theorem seqFinish_rxh_none (h : s.sq = .read) (h' : s.rxh = none) : seqFinish s = .next (markRefused .rxh s) := by
  cases s
  cases h
  cases h'
  rfl

theorem seqFinish_rxb_none {hi : Byte} (h : s.sq = .read) (h' : s.rxh = some hi) (h'' : rxbByte s.rxb = none) :
    seqFinish s = .next (markRefused .rxb s) := by
  delta seqFinish
  rw [h, h', h'']
  rfl

theorem seqSend_eq (c : Cfg) (p : Peer) (b : Byte) (s : State) : seqSend c p b s = seqAdvance c (xferRun p b s) := rfl

theorem seqAdvance_of_lt (h : s.idx.toNat < (romOf c s.sq).length) : seqAdvance c s
    = { s with rxh := if s.sq = .read ∧ s.idx = 1 then rxbByte s.rxb else s.rxh, idx := s.idx + 1 } := if_pos h

theorem seqAdvance_of_not_lt (h : ¬ s.idx.toNat < (romOf c s.sq).length) : seqAdvance c s = s := if_neg h

/-- A step of the machine in the middle of a byte is a micro-step. -/
theorem step_micro (h : s.phase ≠ .idle) : step s = microStep build peer s := stepOver_micro h

/-- Settles O14: each row is the micro-step of its phase. -/
theorem microStepRows : Obligations.MicroStepRows := by
  refine ⟨fun s h => ?_, fun s out h h' => ?_, fun s h => ?_, fun s h => ?_, fun s h h' => ?_, fun s h h' hsq => ?_,
    fun s h h' hsq => ?_⟩
  · rw [step_micro (by simp [h]), microStep_lower h]
  · rw [step_micro (by simp [h]), microStep_drive h h']
  · rw [step_micro (by simp [h]), microStep_raise h]
  · rw [step_micro (by simp [h]), microStep_wait h]
  · rw [step_micro (by simp [h]), microStep_sample h h']
  · rw [step_micro (by simp [h]), microStep_last h h']
    exact byteDone_direct hsq
  · rw [step_micro (by simp [h]), microStep_last h h']
    exact byteDone_sequence hsq

/-- Events and marks are only appended. -/
def Grows (s t : State) : Prop := (∃ ev, t.wire = s.wire ++ ev) ∧ ∃ marks, t.refused = s.refused ++ marks

/-- Nothing but the wire side moves: events and marks are appended, and GOP and DFMT keep their registers. -/
def WireOnly (s t : State) : Prop := Grows s t ∧ DataKept s t

theorem grows_refl (s : State) : Grows s s := ⟨⟨[], by simp⟩, ⟨[], by simp⟩⟩

/-- An update that keeps the registers of GOP and DFMT moves the wire side only, given the events it appends. -/
theorem wireOnly_of_events (ev : List WireEvent) (hwire : t.wire = s.wire ++ ev) (hrefused : t.refused = s.refused)
    (hdata : DataKept s t) : WireOnly s t :=
  ⟨⟨⟨ev, hwire⟩, ⟨[], by simp [hrefused]⟩⟩, hdata⟩

/-- An update of other registers of the wire side moves the wire side only. -/
theorem wireOnly_of_kept (hwire : t.wire = s.wire) (hrefused : t.refused = s.refused) (hdata : DataKept s t) :
    WireOnly s t :=
  wireOnly_of_events [] (by simp [hwire]) hrefused hdata

theorem wireOnly_markRefused (r : Reg) (s : State) : WireOnly s (markRefused r s) :=
  ⟨⟨⟨[], by simp⟩, ⟨[r], rfl⟩⟩, rfl⟩

theorem wireOnly_trans (h : WireOnly s t) (h' : WireOnly t u) : WireOnly s u := by
  obtain ⟨⟨⟨ev, hev⟩, ⟨marks, hmarks⟩⟩, hdata⟩ := h
  obtain ⟨⟨⟨ev', hev'⟩, ⟨marks', hmarks'⟩⟩, hdata'⟩ := h'
  refine ⟨⟨⟨ev ++ ev', ?_⟩, ⟨marks ++ marks', ?_⟩⟩, hdata.trans hdata'⟩
  · rw [hev', hev, List.append_assoc]
  · rw [hmarks', hmarks, List.append_assoc]

/-- Sending bytes moves the wire side only. -/
theorem wireOnly_of_sends {outs : List Byte} (h : Sends outs s t) : WireOnly s t := by
  obtain ⟨gots, ev, -, hev⟩ := h.trace
  exact wireOnly_of_events ev hev h.refused h.data

/-- A sequence stepping on touches its own registers only. -/
theorem wireOnly_seqAdvance (c : Cfg) (s : State) : WireOnly s (seqAdvance c s) := by
  by_cases h : s.idx.toNat < (romOf c s.sq).length
  · rw [seqAdvance_of_lt h]
    exact wireOnly_of_kept rfl rfl rfl
  · rw [seqAdvance_of_not_lt h]
    exact wireOnly_of_kept rfl rfl rfl

/-- The end of a byte: RXB is returned, or the sequence steps on. -/
theorem byteDone_completes (c : Cfg) (s : State) : ∃ t, byteDone c s = .next t ∧ WireOnly s t := by
  by_cases hsq : s.sq = .none
  · rw [byteDone_direct hsq]
    cases hrx : rxbByte s.rxb with
    | none => exact ⟨_, returnRxb_none hrx, wireOnly_markRefused ..⟩
    | some b => exact ⟨_, returnRxb_some hrx, wireOnly_of_kept rfl rfl rfl⟩
  · exact ⟨_, byteDone_sequence hsq, wireOnly_seqAdvance c s⟩

/-- The end of a sequence: SEQ stops, with READ's sample assembled where both bytes are there. -/
theorem seqFinish_completes (s : State) : ∃ t, seqFinish s = .next t ∧ WireOnly s t := by
  cases hsq : s.sq with
  | none => exact ⟨_, seqFinish_none hsq, wireOnly_of_kept rfl rfl rfl⟩
  | init => exact ⟨_, seqFinish_init hsq, wireOnly_of_kept rfl rfl rfl⟩
  | read =>
    cases hh : s.rxh with
    | none => exact ⟨_, seqFinish_rxh_none hsq hh, wireOnly_markRefused ..⟩
    | some hi =>
      cases hl : rxbByte s.rxb with
      | none => exact ⟨_, seqFinish_rxb_none hsq hh hl, wireOnly_markRefused ..⟩
      | some lo => exact ⟨_, seqFinish_read hsq hh hl, wireOnly_of_kept rfl rfl rfl⟩

/-- A micro-step of any phase completes and moves the wire side only. -/
theorem microStep_completes (c : Cfg) (p : Peer) (h : s.phase ≠ .idle) :
    ∃ t, microStep c p s = .next t ∧ WireOnly s t := by
  cases hphase : s.phase with
  | idle => exact absurd hphase h
  | lower => exact ⟨_, microStep_lower hphase, wireOnly_of_events [.lo] rfl rfl rfl⟩
  | drive =>
    cases htxb : s.txb with
    | none => exact ⟨_, microStep_drive_none hphase htxb, wireOnly_markRefused ..⟩
    | some out =>
      exact ⟨_, microStep_drive hphase htxb, wireOnly_of_events [.dr (out.getLsbD s.bitpos.toNat)] rfl rfl rfl⟩
  | raise => exact ⟨_, microStep_raise hphase, wireOnly_of_events [.hi] rfl rfl rfl⟩
  | wait => exact ⟨_, microStep_wait hphase, wireOnly_of_events [.wt] rfl rfl rfl⟩
  | sample =>
    by_cases hbit : s.bitpos = 0
    · have hsample : WireOnly s (setPhase .idle (sampleSdi p s)) :=
        wireOnly_of_events [.sm (p s.draws s.wire)] rfl rfl rfl
      obtain ⟨t, ht, hdone⟩ := byteDone_completes c (setPhase .idle (sampleSdi p s))
      exact ⟨t, (microStep_last hphase hbit).trans ht, wireOnly_trans hsample hdone⟩
    · exact ⟨_, microStep_sample hphase hbit, wireOnly_of_events [.sm (p s.draws s.wire)] rfl rfl rfl⟩

/-- Every instruction completes and only appends. -/
theorem execWith_grows (hc : c.wf = true) (p : Peer) (i : Instr) (s : State) :
    ∃ t, execWith c p i s = .next t ∧ Grows s t := by
  obtain ⟨t, ht, href⟩ := execWith_completes hc p i s
  refine ⟨t, ht, ?_, _, href⟩
  obtain hsends | ⟨-, hkept⟩ := execWith_sends_or_pinsKept hc ht
  · exact (wireOnly_of_sends hsends).1.1
  · exact ⟨[], by simp [hkept.wire]⟩

/-- Every step of an accepted build completes, from any state, and only appends. -/
theorem stepWith_grows (hc : c.wf = true) (p : Peer) (s : State) : ∃ t, stepWith c p s = .next t ∧ Grows s t := by
  obtain ⟨-, -, hwait⟩ | ⟨w, rest, -, -, hcall⟩ | ⟨b, -, -, hbyte⟩ | ⟨-, -, -, hfinish⟩ | ⟨hphase, hmicro⟩ :=
    stepWith_cases hc p s
  · exact ⟨s, hwait, grows_refl s⟩
  · obtain ⟨t, ht, hgrows⟩ := execWith_grows hc p (decodeCmd w) { s with calls := rest }
    exact ⟨t, hcall.trans ht, hgrows⟩
  · exact ⟨_, hbyte, (wireOnly_of_sends (seqSend_sends c p b s)).1⟩
  · obtain ⟨t, ht, honly⟩ := seqFinish_completes s
    exact ⟨t, hfinish.trans ht, honly.1⟩
  · obtain ⟨t, ht, honly⟩ := microStep_completes c p hphase
    exact ⟨t, hmicro.trans ht, honly.1⟩

/-- Settles O60: marks are among what a step only appends. -/
theorem neverStopsKeepsMarks : Obligations.NeverStopsKeepsMarks := by
  have hany : ∀ (c : Cfg) (p : Peer) s, c.wf = true → ∃ t marks, stepWith c p s = .next t
      ∧ t.refused = s.refused ++ marks := fun c p s hc => by
    obtain ⟨t, ht, -, marks, hmarks⟩ := stepWith_grows hc p s
    exact ⟨t, marks, ht, hmarks⟩
  exact ⟨hany, fun s => step_eq_stepWith s ▸ hany build peer s build_wf⟩

/-- Settles O48: events are among what a step only appends. -/
theorem wireOnlyGrows : Obligations.WireOnlyGrows := by
  intro s t ht
  obtain ⟨t', ht', hwire, -⟩ := stepWith_grows build_wf peer s
  rw [← step_eq_stepWith] at ht'
  cases ht'.symm.trans ht
  exact hwire

end Sys2Proof.Machine
end

section
/-! PROOFS. The invariants of the machine (spec/10_state.md section 11), read off what each instruction sends, keeps and
marks and off the cases of a step. -/

namespace Sys2Proof.Machine

variable {c : Cfg} {p : Peer} {i : Instr} {s t : State}

/-- Settles O1: the reset state, field by field. -/
theorem resetRegisters : Obligations.ResetRegisters := by
  unfold Obligations.ResetRegisters
  simp [State.reset]

/-- Settles O29: each refusal is `execWith_unwritten` of the build. -/
theorem unwrittenReadsRefuse : Obligations.UnwrittenReadsRefuse := by
  have hrefuse : ∀ i s r, unwritten i s = some r → exec i s = .next { s with refused := s.refused ++ [r] } :=
    fun i s r h => (exec_eq_execWith i s).trans (execWith_unwritten h)
  refine ⟨fun s h => hrefuse .cond s .raw ?_, fun s h => hrefuse .tare s .unb ?_, fun s h => hrefuse .line s .px10 ?_,
    fun s px hp h => hrefuse .line s .vx10 ?_⟩
  · rw [unwritten_cond, if_pos h]
  · rw [unwritten_tare, if_pos h]
  · rw [unwritten_line, if_pos h]
  · rw [unwritten_line, if_neg (by simp [hp]), if_pos h]

/-- Settles O47: a mark is appended exactly where a register is found unwritten. -/
theorem completesUnlessUnwritten : Obligations.CompletesUnlessUnwritten := by
  intro i s
  obtain ⟨t, ht, href⟩ := execWith_completes build_wf peer i s
  refine ⟨t, (exec_eq_execWith i s).trans ht, ?_⟩
  rw [← unwritten_eq_none_iff, href, List.append_right_eq_self, Option.toList_eq_nil_iff]

theorem waitedMillis_eq (c : Cfg) (es : List WireEvent) : waitedMillis c es = c.tHalfMs * es.count WireEvent.wt := rfl

/-- The least time of a trace is a sum over its pieces. -/
theorem waitedMillis_append (c : Cfg) (es fs : List WireEvent) :
    waitedMillis c (es ++ fs) = waitedMillis c es + waitedMillis c fs := by
  simp only [waitedMillis_eq, List.count_append, Nat.mul_add]

/-- An instruction of the build waits one millisecond for each bit it sends. -/
theorem waitedMillis_exec (h : exec i s = .next t) :
    waitedMillis build t.wire = waitedMillis build s.wire + 8 * (bytesOf build i).length := by
  rw [exec_eq_execWith] at h
  obtain hsends | ⟨hnone, hkept⟩ := execWith_sends_or_pinsKept build_wf h
  · obtain ⟨gots, ev, hev, hwire⟩ := hsends.trace
    have hms : waitedMillis build ev = 8 * (bytesOf build i).length := by
      rw [waitedMillis_eq, hev.waits]
      exact Nat.one_mul _
    rw [hwire, waitedMillis_append, hms]
  · rw [hkept.wire, hnone]
    rfl

/-- Settles O49: eight bits for each byte of `bytesOf`. -/
theorem waitLowerBounds : Obligations.WaitLowerBounds := by
  intro i s t h
  rw [waitedMillis_exec h]
  cases i <;> rfl

/-- XFER leaves RAW and SEQ's registers. -/
theorem xferOp_keeps {out : Byte} (ht : xferOp p out s = .next t) :
    t.raw = s.raw ∧ t.sq = s.sq ∧ t.idx = s.idx ∧ t.rxh = s.rxh := by
  obtain ⟨b7, b6, b5, b4, b3, b2, b1, b0, hxfer⟩ := xferOp_spec p out s
  cases hxfer.symm.trans ht
  exact ⟨rfl, rfl, rfl, rfl⟩

/-- INIT leaves RAW and RXH. -/
theorem initOp_keeps (hc : c.wf = true) (ht : initOp c p s = .next t) : t.raw = s.raw ∧ t.rxh = s.rxh := by
  obtain ⟨gots, last, ev, rx, -, -, -, hinit⟩ := initOp_wf hc p s
  cases hinit.symm.trans ht
  exact ⟨rfl, rfl⟩

/-- A byte of a sequence leaves RAW. -/
theorem seqSend_raw (c : Cfg) (p : Peer) (b : Byte) (s : State) : (seqSend c p b s).raw = s.raw := by
  obtain ⟨got, ev, rx, -, -, hsend⟩ := seqSend_spec c p b s
  rw [hsend]

/-- RAW is READ's alone. -/
theorem execWith_raw (hc : c.wf = true) (ht : execWith c p i s = .next t) (hi : i ≠ .read) : t.raw = s.raw := by
  cases i with
  | read => exact absurd rfl hi
  | xfer out => exact (xferOp_keeps ht).1
  | init => exact (initOp_keeps hc ht).1
  | wReset | wSelClk | wClkCfg | wSelSetup | wSetupCfg | wRdData | wFill =>
    cases ht
    exact seqSend_raw ..
  | nop | cond | tare | fmt | line => exact (execWith_pinsKept rfl ht).raw

/-- Only COND, TARE and LINE mark the run. -/
theorem execWith_marks (hc : c.wf = true) (ht : execWith c p i s = .next t) (hne : t.refused ≠ s.refused) :
    i ∈ [.cond, .tare, .line] := by
  obtain ⟨t', ht', href⟩ := execWith_completes hc p i s
  cases ht'.symm.trans ht
  by_contra hi
  refine hne ?_
  rw [href, (unwritten_eq_none_iff (i := i)).mpr, Option.toList_none, List.append_nil]
  rintro (⟨rfl, -⟩ | ⟨rfl, -⟩ | ⟨rfl, -⟩) <;> simp at hi

/-- Settles O46: the registers of GOP and DFMT by `execWith_data`, the wire side by `execWith_pinsKept`. -/
theorem onlyTheirWriters : Obligations.OnlyTheirWriters := by
  intro i s t h
  rw [exec_eq_execWith] at h
  have hdata := execWith_data build_wf h
  refine ⟨fun hne => ?raw, fun hne => ?bias, fun hne => ?line, fun hne => ?pipeline, fun hi => ?pins,
    fun out hi => ?xfer, fun hi => ?init, execWith_calls build_wf h, execWith_marks build_wf h⟩
  case raw => exact not_not.mp fun hi => hne (execWith_raw build_wf h hi)
  case bias =>
    obtain hkept | ⟨rfl, r, -, rfl⟩ | ⟨rfl, -⟩ | ⟨rfl, px, vx, rfl⟩ := hdata
    · exact absurd hkept.bias hne
    · exact absurd rfl hne
    · rfl
    · exact absurd rfl hne
  case line =>
    obtain hkept | ⟨rfl, r, -, rfl⟩ | ⟨rfl, q, -, rfl⟩ | ⟨rfl, -⟩ := hdata
    · exact absurd hkept.line hne
    · exact absurd rfl hne
    · exact absurd rfl hne
    · rfl
  case pipeline =>
    obtain hkept | ⟨rfl, -⟩ | ⟨rfl, q, -, rfl⟩ | ⟨rfl, px, vx, rfl⟩ := hdata
    · exact absurd ⟨hkept.volt, hkept.meas, hkept.unb, hkept.disp, hkept.px10, hkept.vx10, hkept.poor, hkept.voor⟩ hne
    · rfl
    · exact absurd ⟨rfl, rfl, rfl, rfl, rfl, rfl, rfl, rfl⟩ hne
    · exact absurd ⟨rfl, rfl, rfl, rfl, rfl, rfl, rfl, rfl⟩ hne
  case pins =>
    have hnone : bytesOf build i = [] := by
      simp only [List.mem_cons, List.not_mem_nil, or_false] at hi
      obtain (rfl | rfl | rfl | rfl | rfl) | ⟨v, rfl⟩ := hi <;> rfl
    have hkept := execWith_pinsKept hnone h
    exact ⟨hkept.wire, hkept.sck, hkept.sdo, hkept.txb, hkept.rxb, hkept.bitpos, hkept.phase, hkept.sq, hkept.idx,
      hkept.rxh, hkept.draws⟩
  case xfer =>
    subst hi
    exact (xferOp_keeps h).2
  case init =>
    subst hi
    exact (initOp_keeps build_wf h).2

/-- Between operations a step waits or makes a call. -/
theorem stepWith_of_idle (hc : c.wf = true) (hphase : s.phase = .idle) (hsq : s.sq = .none)
    (ht : stepWith c p s = .next t) : t = s ∨ ∃ i rest, execWith c p i { s with calls := rest } = .next t := by
  obtain ⟨-, -, hwait⟩ | ⟨w, rest, -, -, hcall⟩ | ⟨b, -, hlt, -⟩ | ⟨-, hsq', -, -⟩ | ⟨hphase', -⟩ :=
    stepWith_cases hc p s
  · cases hwait.symm.trans ht
    exact .inl rfl
  · exact .inr ⟨_, rest, hcall.symm.trans ht⟩
  · simp [hsq] at hlt
  · exact absurd hsq hsq'
  · exact absurd hphase hphase'

/-- Every instruction keeps the state between operations. -/
theorem execWith_between (hc : c.wf = true) (hs : Between s) (ht : execWith c p i s = .next t) : Between t := by
  obtain hsends | ⟨-, hkept⟩ := execWith_sends_or_pinsKept hc ht
  · obtain ⟨hsck, hphase, hbitpos, hsdo⟩ := hsends.rest
    obtain ⟨hsq, hidx⟩ := hsends.seq hs.sq hs.idx
    exact ⟨hsck, hphase, hsq, hidx, hbitpos, hsdo⟩
  · rw [hkept]
    exact ⟨hs.sck, hs.phase, hs.sq, hs.idx, hs.bitpos, hs.sdo⟩

/-- Settles O40: between operations a step waits or makes a call, and every instruction leaves such a state again. -/
theorem betweenKept : Obligations.BetweenKept := by
  refine ⟨⟨rfl, rfl, rfl, rfl, rfl, nofun⟩, fun s t hs ht => ?_⟩
  rw [step_eq_stepWith] at ht
  obtain rfl | ⟨i, rest, hexec⟩ := stepWith_of_idle build_wf hs.phase hs.sq ht
  · exact hs
  · exact execWith_between (s := { s with calls := rest }) build_wf
      ⟨hs.sck, hs.phase, hs.sq, hs.idx, hs.bitpos, hs.sdo⟩ hexec

/-- Every instruction appends whole bytes, with one draw a bit. -/
theorem execWith_wireWhole (hc : c.wf = true) (hs : WireWhole s) (ht : execWith c p i s = .next t) : WireWhole t := by
  obtain hsends | ⟨-, hkept⟩ := execWith_sends_or_pinsKept hc ht
  · obtain ⟨cs, hcs, hlen, hdraws⟩ := hs
    obtain ⟨gots, ev, hev, hwire⟩ := hsends.trace
    obtain ⟨ds, hds, hlen'⟩ := hev.cycles
    refine ⟨cs ++ ds, ?_, ?_, ?_⟩
    · rw [hwire]
      exact bitCycles_append hcs hds
    · rw [List.length_append]
      omega
    · rw [hsends.draws, hdraws, List.length_append, hlen']
  · rw [hkept]
    exact hs

/-- Settles O43: between operations a step waits or makes a call, and every instruction appends whole bytes. -/
theorem wireWholeKept : Obligations.WireWholeKept := by
  intro s t hs hwhole ht
  rw [step_eq_stepWith] at ht
  obtain rfl | ⟨i, rest, hexec⟩ := stepWith_of_idle build_wf hs.phase hs.sq ht
  · exact hwhole
  · exact execWith_wireWhole (s := { s with calls := rest }) build_wf hwhole hexec

/-- The registers of GOP and DFMT change in a step by a call of COND, TARE or LINE, and by nothing else. -/
theorem stepWith_data (hc : c.wf = true) (ht : stepWith c p s = .next t) :
    DataKept s t
      ∨ (∃ rest r, t = latch c r { s with calls := rest })
      ∨ (∃ rest q, s.unb = some q ∧ t = { s with calls := rest, bias := q })
      ∨ ∃ rest px vx, t = { s with calls := rest, line := (lineChars c px vx).map some } := by
  obtain ⟨-, -, hwait⟩ | ⟨w, rest, -, -, hcall⟩ | ⟨b, -, -, hbyte⟩ | ⟨-, -, -, hfinish⟩ | ⟨hphase, hmicro⟩ :=
    stepWith_cases hc p s
  · cases hwait.symm.trans ht
    exact .inl rfl
  · obtain hkept | ⟨-, r, -, rfl⟩ | ⟨-, q, hq, rfl⟩ | ⟨-, px, vx, rfl⟩ := execWith_data hc (hcall.symm.trans ht)
    · exact .inl hkept
    · exact .inr (.inl ⟨rest, r, rfl⟩)
    · exact .inr (.inr (.inl ⟨rest, q, hq, rfl⟩))
    · exact .inr (.inr (.inr ⟨rest, px, vx, rfl⟩))
  · cases hbyte.symm.trans ht
    exact .inl (seqSend_sends c p b s).data
  · obtain ⟨t', ht', -, hdata⟩ := seqFinish_completes s
    cases ht'.symm.trans (hfinish.symm.trans ht)
    exact .inl hdata
  · obtain ⟨t', ht', -, hdata⟩ := microStep_completes c p hphase
    cases ht'.symm.trans (hmicro.symm.trans ht)
    exact .inl hdata

/-- What one COND latched stays latched while the pipeline registers stay. -/
theorem latched_of_dataKept (h : DataKept s t) (hs : Latched s) : Latched t := by
  unfold Latched
  rw [h.volt, h.meas, h.unb, h.disp, h.px10, h.vx10, h.poor, h.voor]
  exact hs

/-- A COND of the build latches every register from one raw code and the bias of that moment. -/
theorem latched_latch (r : Word16) (hs : BiasIsReading s) : Latched (latch build r s) := by
  obtain ⟨k, hk⟩ := hs
  refine .inr ⟨r, k, rfl, rfl, rfl, ?_, ?_, rfl, ?_, outOfRange_scaledVoltage_build r⟩
  · rw [latch_disp, hk]
  · rw [latch_px10, hk]
  · rw [latch_poor, hk]

/-- UNB, where it is written, is the unbiased reading of a raw code. -/
theorem unb_of_latched {q : Rat} (hs : Latched s) (hq : s.unb = some q) : ∃ k : Word16, q = unbiased build k := by
  obtain ⟨-, -, hnone, -⟩ | ⟨r, k, -, -, hunb, -⟩ := hs
  · cases hnone.symm.trans hq
  · cases hunb.symm.trans hq
    exact ⟨r, rfl⟩

/-- Settles O44: COND latches from the bias, which is a reading; TARE makes the bias a reading, since UNB is one. -/
theorem latchedKept : Obligations.LatchedKept := by
  intro s t hs hbias ht
  rw [step_eq_stepWith] at ht
  obtain hkept | ⟨rest, r, rfl⟩ | ⟨rest, q, hq, rfl⟩ | ⟨rest, px, vx, rfl⟩ := stepWith_data build_wf ht
  · obtain ⟨k, hk⟩ := hbias
    exact ⟨latched_of_dataKept hkept hs, k, hkept.bias.trans hk⟩
  · exact ⟨latched_latch r hbias, hbias⟩
  · exact ⟨hs, unb_of_latched hs hq⟩
  · exact ⟨hs, hbias⟩

/-- LINE of the build writes every position, with a space at column 7 and the terminator at 15. -/
theorem lineOk_lineChars (px vx : Word16) (h : s.line = (lineChars build px vx).map some) : LineOk s := by
  have hp := (fmtChars_length px).2
  have hv := (fmtChars_length vx).2
  have hpcol : build.pCol = 0 := rfl
  have hvcol : build.vCol = 8 := rfl
  refine .inr ⟨fun i => ?_, ?_, ?_⟩
  · simp [h]
  · rw [h, Vector.getElem_map, lineChars_getElem build_wf, dif_neg (by omega), dif_neg (by omega), if_neg (by omega)]
  · rw [h, Vector.getElem_map, lineChars_getElem build_wf, dif_neg (by omega), dif_neg (by omega), if_pos rfl]

/-- Settles O45: only LINE writes the line, and it writes all of it. -/
theorem lineOkKept : Obligations.LineOkKept := by
  intro s t hs ht
  rw [step_eq_stepWith] at ht
  obtain hkept | ⟨rest, r, rfl⟩ | ⟨rest, q, -, rfl⟩ | ⟨rest, px, vx, rfl⟩ := stepWith_data build_wf ht
  · unfold LineOk
    rw [hkept.line]
    exact hs
  · exact hs
  · exact hs
  · exact lineOk_lineChars px vx rfl

end Sys2Proof.Machine
end

section
/-! PROOFS. From every consistent state, whole or half done, a step of any accepted build goes on to a consistent state
(spec/40_transceiver.md section 1, spec/41_sequencer.md section 3). -/

namespace Sys2Proof.Machine

variable {c : Cfg} {p : Peer} {i : Instr} {s t : State}

/-- With no sequence running the position is 0. -/
theorem positionOk_none (h : s.sq = .none) : PositionOk s ↔ s.idx = 0 := by
  delta PositionOk
  rw [h]

/-- A state in which nothing is half done is consistent. -/
theorem consistent_of_rest (hsck : s.sck = true) (hphase : s.phase = .idle) (hsq : s.sq = .none) (hidx : s.idx = 0)
    (hbitpos : s.bitpos = 0) : Consistent s where
  position := (positionOk_none hsq).mpr hidx
  micro := ⟨by simp [hsck, hphase], fun _ => hbitpos, fun h => absurd hphase h, fun h => absurd hphase h⟩
  received := ⟨fun _ h => absurd hsq h, fun h => by simp [hsq] at h⟩

/-- Settles O41: nothing is half done at reset, nothing latched or written, and BIAS = 0 is the reading of code 0. -/
theorem invariantsAtReset : Obligations.InvariantsAtReset := by
  refine ⟨consistent_of_rest rfl rfl rfl rfl rfl, ⟨[], rfl, rfl, rfl⟩,
    .inl ⟨rfl, rfl, rfl, rfl, rfl, rfl, rfl, rfl⟩, ⟨0, ?_⟩, .inl rfl⟩
  rw [unbiased_build, show State.reset.bias = 0 from rfl]
  simp

/-- The tables of an accepted build have at most eight bytes. -/
theorem romOf_length_le (hc : c.wf = true) (sq : SeqId) : (romOf c sq).length ≤ 8 := by
  cases sq with
  | none => simp
  | init => rw [romOf_init_length_wf hc]
  | read => simp [romOf_read_length_wf hc]

/-- The positions of SEQ in an accepted build: within the running table, and inside it while a byte is exchanged. -/
theorem positionOk_iff (hc : c.wf = true) : PositionOk s ↔ s.idx.toNat ≤ (romOf c s.sq).length
    ∧ (s.phase ≠ .idle → s.sq ≠ .none → s.idx.toNat < (romOf c s.sq).length) := by
  delta PositionOk
  cases hsq : s.sq with
  | none => simp [BitVec.toNat_eq]
  | init => simp [romOf_init_length_wf hc]
  | read => simp [romOf_read_length_wf hc]

/-- A consistent state with nothing running has SCK high and its counters at 0. -/
theorem rest_of_consistent (hs : Consistent s) (hphase : s.phase = .idle) (hsq : s.sq = .none) :
    s.sck = true ∧ s.idx = 0 ∧ s.bitpos = 0 := by
  exact ⟨hs.micro.sck.mpr (.inl hphase), (positionOk_none hsq).mp hs.position, hs.micro.bitpos hphase⟩

/-- Every instruction the HOST calls leaves nothing half done. -/
theorem execWith_consistent (hc : c.wf = true) (hs : Consistent s) (hphase : s.phase = .idle) (hsq : s.sq = .none)
    (ht : execWith c p i s = .next t) : Consistent t := by
  obtain ⟨hsck, hidx, hbitpos⟩ := rest_of_consistent hs hphase hsq
  obtain hsends | ⟨-, hkept⟩ := execWith_sends_or_pinsKept hc ht
  · obtain ⟨hsck', hphase', hbitpos', -⟩ := hsends.rest
    obtain ⟨hsq', hidx'⟩ := hsends.seq hsq hidx
    exact consistent_of_rest hsck' hphase' hsq' hidx' hbitpos'
  · exact consistent_of_rest (hkept.sck.trans hsck) (hkept.phase.trans hphase) (hkept.sq.trans hsq)
      (hkept.idx.trans hidx) (hkept.bitpos.trans hbitpos)

/-- A whole byte stepping the sequence on leaves a consistent state: RXB is whole, and the second byte of a READ goes to
RXH. -/
theorem consistent_seqAdvance (hc : c.wf = true) (hsck : s.sck = true) (hphase : s.phase = .idle)
    (hbitpos : s.bitpos = 0) (hrxb : (rxbByte s.rxb).isSome = true)
    (hrxh : s.sq = .read → 2 ≤ s.idx.toNat → s.rxh.isSome = true)
    (hlt : s.idx.toNat < (romOf c s.sq).length) : Consistent (seqAdvance c s) := by
  have hlen := romOf_length_le hc s.sq
  have hnext : (s.idx + 1).toNat = s.idx.toNat + 1 := by
    rw [BitVec.toNat_add]
    exact Nat.mod_eq_of_lt (by simp; omega)
  rw [seqAdvance_of_lt hlt]
  refine ⟨(positionOk_iff hc).mpr ⟨?_, fun h => absurd hphase h⟩, ?_, fun _ _ _ => hrxb, fun hread h2 => ?_⟩
  · rw [hnext]
    exact hlt
  · exact ⟨by simp [hsck, hphase], fun _ => hbitpos, fun h => absurd hphase h, fun h => absurd hphase h⟩
  · rw [hnext] at h2
    by_cases h1 : s.idx = 1
    · simpa [show s.sq = .read from hread, h1] using hrxb
    · have hne : s.idx.toNat ≠ 1 := fun h => h1 (BitVec.eq_of_toNat_eq h)
      have hkept : (if s.sq = .read ∧ s.idx = 1 then rxbByte s.rxb else s.rxh) = s.rxh := if_neg fun h => h1 h.2
      exact (congrArg Option.isSome hkept).trans (hrxh hread (by omega))

/-- A byte of a running sequence sent in one step leaves a consistent state. -/
theorem consistent_seqSend (hc : c.wf = true) (hs : Consistent s) (hlt : s.idx.toNat < (romOf c s.sq).length)
    (b : Byte) : Consistent (seqSend c p b s) := by
  obtain ⟨got, ev, rx, -, hrx, hrun⟩ := xferRun_byte p b s
  rw [seqSend_eq, hrun]
  exact consistent_seqAdvance hc rfl rfl rfl (by simp [hrx]) hs.received.rxh hlt

/-- The end of a sequence finds every byte it needs and leaves nothing half done. -/
theorem consistent_seqFinish (hc : c.wf = true) (hs : Consistent s) (hphase : s.phase = .idle) (hsq : s.sq ≠ .none)
    (hpast : (romOf c s.sq).length ≤ s.idx.toNat) :
    ∃ t, seqFinish s = .next t ∧ Consistent t ∧ t.refused = s.refused := by
  have hsck := hs.micro.sck.mpr (.inl hphase)
  have hbitpos := hs.micro.bitpos hphase
  cases hq : s.sq with
  | none => exact absurd hq hsq
  | init => exact ⟨_, seqFinish_init hq, consistent_of_rest hsck hphase rfl rfl hbitpos, rfl⟩
  | read =>
    rw [hq, romOf_read_length_wf hc] at hpast
    obtain ⟨hi, hhi⟩ := Option.isSome_iff_exists.mp (hs.received.rxh hq (by omega))
    obtain ⟨lo, hlo⟩ := Option.isSome_iff_exists.mp (hs.received.rxb hphase hsq (by omega))
    exact ⟨_, seqFinish_read hq hhi hlo, consistent_of_rest hsck hphase rfl rfl hbitpos, rfl⟩

/-- Inside a byte a state stays consistent while SEQ's registers and TXB stay, SCK has the level of the phase, and the
bits above BITPOS have been received. -/
theorem consistent_of_inByte (hc : c.wf = true) (hs : Consistent s) (h : s.phase ≠ .idle) (hphase : t.phase ≠ .idle)
    (hsq : t.sq = s.sq) (hidx : t.idx = s.idx) (hrxh : t.rxh = s.rxh) (htxb : t.txb = s.txb)
    (hsck : t.sck = true ↔ t.phase = .idle ∨ t.phase = .lower ∨ t.phase = .wait ∨ t.phase = .sample)
    (hrxb : ∀ i : Fin 8, t.bitpos.toNat < i.val → (t.rxb[i]).isSome = true) : Consistent t := by
  obtain ⟨hle, hlt⟩ := (positionOk_iff hc).mp hs.position
  refine ⟨(positionOk_iff hc).mpr ?_, ⟨hsck, fun h' => absurd h' hphase, fun _ => ?_, fun _ => hrxb⟩,
    fun h' => absurd h' hphase, ?_⟩
  · rw [hsq, hidx]
    exact ⟨hle, fun _ => hlt h⟩
  · rw [htxb]
    exact hs.micro.txb h
  · rw [hsq, hidx, hrxh]
    exact hs.received.rxh

/-- Sampling a bit receives it and leaves the bits above it received. -/
theorem sampleSdi_received (hrxb : ∀ i : Fin 8, s.bitpos.toNat < i.val → (s.rxb[i]).isSome = true) (i : Fin 8)
    (hi : s.bitpos.toNat ≤ i.val) : ((sampleSdi p s).rxb[i]).isSome = true := by
  rw [sampleSdi_rxb, Fin.getElem_fin, Vector.getElem_set]
  split_ifs with h
  · rfl
  · exact hrxb i (by omega)

/-- RXB reads as a byte once all its bits have been received. -/
theorem rxbByte_isSome {v : Vector (Option Bool) 8} (h : ∀ i : Fin 8, (v[i]).isSome = true) :
    (rxbByte v).isSome = true := by
  have hbit : ∀ (i : Nat) (hi : i < 8), ∃ b, v[i] = some b := fun i hi => Option.isSome_iff_exists.mp (h ⟨i, hi⟩)
  obtain ⟨b0, h0⟩ := hbit 0 (by decide)
  obtain ⟨b1, h1⟩ := hbit 1 (by decide)
  obtain ⟨b2, h2⟩ := hbit 2 (by decide)
  obtain ⟨b3, h3⟩ := hbit 3 (by decide)
  obtain ⟨b4, h4⟩ := hbit 4 (by decide)
  obtain ⟨b5, h5⟩ := hbit 5 (by decide)
  obtain ⟨b6, h6⟩ := hbit 6 (by decide)
  obtain ⟨b7, h7⟩ := hbit 7 (by decide)
  simp [rxbByte, h0, h1, h2, h3, h4, h5, h6, h7]

/-- The eighth sample ends the byte: it is returned, or the sequence steps on. -/
theorem consistent_byteDone (hc : c.wf = true) (hs : Consistent s) (hphase : s.phase = .sample) (hbit : s.bitpos = 0) :
    ∃ t, byteDone c (setPhase .idle (sampleSdi p s)) = .next t ∧ Consistent t ∧ t.refused = s.refused := by
  have hbusy : s.phase ≠ .idle := by simp [hphase]
  have hsck : s.sck = true := hs.micro.sck.mpr (by simp [hphase])
  have hrx : (rxbByte (sampleSdi p s).rxb).isSome = true :=
    rxbByte_isSome fun i => sampleSdi_received (hs.micro.rxb hbusy) i (by simp [hbit])
  by_cases hsq : s.sq = .none
  · obtain ⟨b, hb⟩ := Option.isSome_iff_exists.mp hrx
    have hidx : s.idx = 0 := (positionOk_none hsq).mp hs.position
    have hret : returnRxb (setPhase .idle (sampleSdi p s)) = .next _ := returnRxb_some hb
    exact ⟨_, Eq.trans (byteDone_direct (by exact hsq)) hret, consistent_of_rest hsck rfl hsq hidx hbit, rfl⟩
  · have hlt := ((positionOk_iff hc).mp hs.position).2 hbusy hsq
    refine ⟨_, byteDone_sequence hsq, consistent_seqAdvance hc hsck rfl hbit hrx hs.received.rxh hlt, ?_⟩
    rw [seqAdvance_of_lt (by exact hlt)]
    rfl

/-- A micro-step of a consistent state leaves a consistent state and no mark. -/
theorem consistent_microStep (hc : c.wf = true) (hs : Consistent s) (h : s.phase ≠ .idle) :
    ∃ t, microStep c p s = .next t ∧ Consistent t ∧ t.refused = s.refused := by
  have hsck := hs.micro.sck
  have hrxb := hs.micro.rxb h
  cases hphase : s.phase with
  | idle => exact absurd hphase h
  | lower =>
    exact ⟨_, microStep_lower hphase, consistent_of_inByte hc hs h (by simp) rfl rfl rfl rfl (by simp) hrxb, rfl⟩
  | drive =>
    obtain ⟨out, hout⟩ := Option.isSome_iff_exists.mp (hs.micro.txb h)
    exact ⟨_, microStep_drive hphase hout,
      consistent_of_inByte hc hs h (by simp) rfl rfl rfl rfl (by simp [hsck, hphase]) hrxb, rfl⟩
  | raise =>
    exact ⟨_, microStep_raise hphase, consistent_of_inByte hc hs h (by simp) rfl rfl rfl rfl (by simp) hrxb, rfl⟩
  | wait =>
    exact ⟨_, microStep_wait hphase,
      consistent_of_inByte hc hs h (by simp) rfl rfl rfl rfl (by simp [hsck, hphase]) hrxb, rfl⟩
  | sample =>
    by_cases hbit : s.bitpos = 0
    · rw [microStep_last hphase hbit]
      exact consistent_byteDone hc hs hphase hbit
    · refine ⟨_, microStep_sample hphase hbit,
        consistent_of_inByte hc hs h (by simp) rfl rfl rfl rfl (by simp [hsck, hphase]) fun i hi => ?_, rfl⟩
      refine sampleSdi_received hrxb i ?_
      have hpos : s.bitpos.toNat ≠ 0 := fun h0 => hbit (BitVec.eq_of_toNat_eq h0)
      have hprev : (s.bitpos - 1).toNat = s.bitpos.toNat - 1 := by bv_omega
      rw [setPhase_bitpos, setBitpos_bitpos, hprev] at hi
      omega

/-- Settles O59: a call leaves nothing half done and marks what it finds unwritten; everything else goes on in the byte
or the sequence, without a mark. -/
theorem anyBuildNeverStuck : Obligations.AnyBuildNeverStuck := by
  intro c p s hc hs
  obtain ⟨-, -, hwait⟩ | ⟨w, rest, hphase, hsq, hcall⟩ | ⟨b, -, hlt, hbyte⟩ | ⟨hphase, hsq, hpast, hfinish⟩
      | ⟨hphase, hmicro⟩ := stepWith_cases hc p s
  · exact ⟨s, hwait, hs, .inl rfl⟩
  · obtain ⟨hsck, hidx, hbitpos⟩ := rest_of_consistent hs hphase hsq
    obtain ⟨t, ht, href⟩ := execWith_completes hc p (decodeCmd w) { s with calls := rest }
    refine ⟨t, hcall.trans ht, execWith_consistent (s := { s with calls := rest }) hc
      (consistent_of_rest hsck hphase hsq hidx hbitpos) hphase hsq ht, ?_⟩
    cases hu : unwritten (decodeCmd w) { s with calls := rest } with
    | none => exact .inl (by simp [href, hu])
    | some r => exact .inr ⟨r, mem_of_unwritten hu, by simp [href, hu]⟩
  · exact ⟨_, hbyte, consistent_seqSend hc hs hlt b, .inl (seqSend_sends c p b s).refused⟩
  · obtain ⟨t, ht, hcons, href⟩ := consistent_seqFinish hc hs hphase hsq hpast
    exact ⟨t, hfinish.trans ht, hcons, .inl href⟩
  · obtain ⟨t, ht, hcons, href⟩ := consistent_microStep hc hs hphase
    exact ⟨t, hmicro.trans ht, hcons, .inl href⟩

/-- Settles O42: the documented defaults are a build the model accepts. -/
theorem consistentNeverStuck : Obligations.ConsistentNeverStuck := fun s hs =>
  step_eq_stepWith s ▸ anyBuildNeverStuck build peer s build_wf hs

end Sys2Proof.Machine
end

section
/-! PROOFS. XFER as a trace (spec/40_transceiver.md rules R100 to R106), and INIT, READ and the wire instructions as
whole operations of any accepted build (spec/41_sequencer.md). -/

namespace Sys2Proof.Machine

variable {c : Cfg} {p : Peer} {s t : State}

/-- Settles O9: `byteEvents` written out. -/
theorem xferTraceAndState : Obligations.XferTraceAndState := fun s out => xferOp_spec peer out s

/-- One bit sampled after a known trace is the environment's answer to that trace with the bit's first four events. -/
theorem xferBit_sampled (p : Peer) (out : Byte) (i : BitVec 3) {w : List WireEvent} {n : Nat} (hw : t.wire = w)
    (hn : t.draws = n) : ∃ b,
    b = p n (w ++ [WireEvent.lo, WireEvent.dr (out.getLsbD i.toNat), WireEvent.hi, WireEvent.wt])
      ∧ (xferBit p out i t).wire = w ++ bitEvents (out.getLsbD i.toNat) b ∧ (xferBit p out i t).draws = n + 1 := by
  subst hw hn
  exact ⟨_, rfl, by rw [xferBit_eq], xferBit_draws p out i t⟩

/-- The trace of a byte, with each bit sampled the environment's answer at its place. -/
theorem xferRun_sampled (p : Peer) (out : Byte) (s : State) : ∃ b7 b6 b5 b4 b3 b2 b1 b0 : Bool,
    (xferRun p out s).wire = s.wire ++ byteEvents out b7 b6 b5 b4 b3 b2 b1 b0
      ∧ ∀ k (_ : k < 8), [b7, b6, b5, b4, b3, b2, b1, b0][k]?
          = some (p (s.draws + k) (s.wire ++ (byteEvents out b7 b6 b5 b4 b3 b2 b1 b0).take (5 * k + 4))) := by
  obtain ⟨b7, a7, w7, d7⟩ := xferBit_sampled p out 7 (t := setTxb out s) rfl rfl
  obtain ⟨b6, a6, w6, d6⟩ := xferBit_sampled p out 6 w7 d7
  obtain ⟨b5, a5, w5, d5⟩ := xferBit_sampled p out 5 w6 d6
  obtain ⟨b4, a4, w4, d4⟩ := xferBit_sampled p out 4 w5 d5
  obtain ⟨b3, a3, w3, d3⟩ := xferBit_sampled p out 3 w4 d4
  obtain ⟨b2, a2, w2, d2⟩ := xferBit_sampled p out 2 w3 d3
  obtain ⟨b1, a1, w1, d1⟩ := xferBit_sampled p out 1 w2 d2
  obtain ⟨b0, a0, w0, d0⟩ := xferBit_sampled p out 0 w1 d1
  refine ⟨b7, b6, b5, b4, b3, b2, b1, b0, ?_, fun k hk => ?_⟩
  · rw [xferRun, setPhase_wire]
    refine w0.trans ?_
    simp [byteEvents]
  · interval_cases k
    · simpa [byteEvents, bitEvents] using a7
    · simpa [byteEvents, bitEvents] using a6
    · simpa [byteEvents, bitEvents] using a5
    · simpa [byteEvents, bitEvents] using a4
    · simpa [byteEvents, bitEvents] using a3
    · simpa [byteEvents, bitEvents] using a2
    · simpa [byteEvents, bitEvents] using a1
    · simpa [byteEvents, bitEvents] using a0

/-- XFER is the run of its byte, with the byte received handed to the HOST. -/
theorem xferOp_eq (p : Peer) (out : Byte) (s : State) : ∃ got ev, IsByte out got ev
    ∧ (xferRun p out s).wire = s.wire ++ ev ∧ (xferRun p out s).returned = s.returned
    ∧ xferOp p out s = .next (returnToHost (.byte got) (xferRun p out s)) := by
  obtain ⟨got, ev, rx, hbyte, hrx, hrun⟩ := xferRun_byte p out s
  refine ⟨got, ev, hbyte, by rw [hrun], by rw [hrun], returnRxb_some ?_⟩
  rw [hrun]
  exact hrx

/-- Settles O10. -/
theorem sampledBitsAreAnswers : Obligations.SampledBitsAreAnswers := by
  intro p s out
  obtain ⟨b7, b6, b5, b4, b3, b2, b1, b0, hwire, hanswers⟩ := xferRun_sampled p out s
  obtain ⟨got, ev, -, -, -, hxfer⟩ := xferOp_eq p out s
  exact ⟨b7, b6, b5, b4, b3, b2, b1, b0, _, hxfer, hwire, hanswers⟩

/-- The loop-back environment answers with the bit just driven. -/
theorem loopBack_driven (n : Nat) (w : List WireEvent) (o : Bool) :
    loopBack n (w ++ [WireEvent.lo, WireEvent.dr o, WireEvent.hi, WireEvent.wt]) = o := by
  simp [loopBack, lastDrive]

/-- In loop-back one bit writes the bit it drives at its place in RXB. -/
theorem xferBit_loopBack_rxb (out : Byte) (i : BitVec 3) (s : State) :
    (xferBit loopBack out i s).rxb = s.rxb.set i.toNat (some (out.getLsbD i.toNat)) i.isLt := by
  rw [xferBit_eq, loopBack_driven]

/-- In loop-back the byte received is the byte sent. -/
theorem rxbByte_xferRun_loopBack (out : Byte) (s : State) : rxbByte (xferRun loopBack out s).rxb = some out := by
  have hbits : rxbByte (xferRun loopBack out s).rxb = some (byteOfBits (out.getLsbD 7) (out.getLsbD 6) (out.getLsbD 5)
      (out.getLsbD 4) (out.getLsbD 3) (out.getLsbD 2) (out.getLsbD 1) (out.getLsbD 0)) := by
    simp [xferRun, bitPositions, xferBit_loopBack_rxb, rxbByte]
  rw [hbits, byteOfBits_getLsbD]

/-- Settles O15. -/
theorem loopBackEchoes : Obligations.LoopBackEchoes := by
  intro s out
  obtain ⟨got, ev, -, -, hret, -⟩ := xferOp_eq loopBack out s
  refine ⟨_, returnRxb_some (rxbByte_xferRun_loopBack out s), ?_⟩
  rw [returnToHost_returned, hret]

/-- Whole bytes are whole bit cycles. -/
theorem bitCycles_isSome {outs gots : List Byte} {ev : List WireEvent} (h : Transfers outs gots ev) :
    (bitCycles ev).isSome = true := by
  obtain ⟨cs, hcs, -⟩ := h.cycles
  rw [hcs]
  rfl

/-- Settles O55. -/
theorem initAnyBuild : Obligations.InitAnyBuild := by
  intro c p s hc
  obtain ⟨gots, last, ev, rx, -, hrx, hev, hinit⟩ := initOp_wf hc p s
  refine ⟨ev, rx, hinit, hev.sent, hev.length, bitCycles_isSome hev, ?_⟩
  rw [hrx, hev.received, List.getLast?_append]
  rfl

/-- Settles O16: INIT of the documented defaults; its rising edges and received bytes are counted by `Transfers`. -/
theorem initSendsConfiguration : Obligations.InitSendsConfiguration := by
  refine ⟨fun w h => by simp [decodeCmd_rows, h], fun s => ?_⟩
  obtain ⟨gots, last, ev, rx, hgots, hrx, hev, hinit⟩ := initOp_wf build_wf peer s
  refine ⟨ev, rx, (exec_eq_execWith _ s).trans hinit, hev.sent, hev.length, bitCycles_isSome hev, hev.rises, ?_, ?_⟩
  · rw [hev.received, List.length_append, hgots]
    rfl
  · rw [hrx, hev.received, List.getLast?_append]
    rfl

/-- Settles O56. -/
theorem readAnyBuild : Obligations.ReadAnyBuild := by
  intro c p s hc
  obtain ⟨g, h, l, ev, rx, hrx, hev, hread⟩ := readOp_wf hc p s
  exact ⟨ev, rx, g, h, l, hread, hev.sent, hev.received, hev.length, bitCycles_isSome hev, hrx⟩

/-- Settles O19: READ of the documented defaults. -/
theorem readStateAfter : Obligations.ReadStateAfter := fun s =>
  (exec_eq_execWith .read s).symm ▸ readAnyBuild build peer s build_wf

/-- The tables of an accepted build, by the position reached. -/
theorem lt_romOf_length_iff (hc : c.wf = true) {sq : SeqId} {n : Nat} :
    n < (romOf c sq).length ↔ (sq = .init ∧ n < 8) ∨ (sq = .read ∧ n < 3) := by
  cases sq with
  | none => simp
  | init => simp [romOf_init_length_wf hc]
  | read => simp [romOf_read_length_wf hc]

/-- Settles O57: a wire instruction is one byte of the running sequence. -/
theorem wireBytesAnyBuild : Obligations.WireBytesAnyBuild := by
  intro c p i b hc hib s
  obtain ⟨got, ev, rx, hbyte, hrx, hsend⟩ := seqSend_spec c p b s
  have hev := transfers_of_isByte hbyte
  have hrxh : (s.idx.toNat < (romOf c s.sq).length ∧ s.sq = .read ∧ s.idx = 1) ↔ (s.sq = .read ∧ s.idx = 1) := by
    rw [and_iff_right_iff_imp, lt_romOf_length_iff hc]
    rintro ⟨hsq, hidx⟩
    exact .inr ⟨hsq, by simp [hidx]⟩
  refine ⟨ev, rx, got, ?_, hev.sent, hev.received, hrx, hev.length⟩
  rw [execWith_wireTableOf hib, hsend]
  simp only [hrxh]
  simp only [lt_romOf_length_iff hc]

/-- Settles O23: the table of the documented defaults. -/
theorem wireBytesAreSent : Obligations.WireBytesAreSent := fun i b hib s =>
  (exec_eq_execWith i s).symm ▸ wireBytesAnyBuild build peer i b build_wf hib s

/-- The byte a scripted environment answers from a draw on. -/
def scriptedByte (f : Nat → Bool) (n : Nat) : Byte :=
  byteOfBits (f n) (f (n + 1)) (f (n + 2)) (f (n + 3)) (f (n + 4)) (f (n + 5)) (f (n + 6)) (f (n + 7))

/-- A sequence stepping on leaves RXB. -/
theorem seqSend_rxb (c : Cfg) (p : Peer) (b : Byte) (s : State) : (seqSend c p b s).rxb = (xferRun p b s).rxb := by
  rw [seqSend_eq]
  by_cases h : (xferRun p b s).idx.toNat < (romOf c (xferRun p b s).sq).length
  · rw [seqAdvance_of_lt h]
  · rw [seqAdvance_of_not_lt h]

/-- In a scripted environment a table receives the scripted bytes, one after the other. -/
theorem seqTable_scripted (c : Cfg) (f : Nat → Bool) (outs : List Byte) (s : State) : ∃ ev,
    (seqTable c (scripted f) outs s).wire = s.wire ++ ev
      ∧ Transfers outs ((List.range outs.length).map fun k => scriptedByte f (s.draws + 8 * k)) ev := by
  induction outs generalizing s with
  | nil => exact ⟨[], by simp [seqTable], Transfers.nil⟩
  | cons out outs ih =>
    obtain ⟨got, ev, rx, hbyte, hrx, hsend⟩ := seqSend_spec c (scripted f) out s
    have hgot : got = scriptedByte f s.draws := by
      have hrun : rx = (xferRun (scripted f) out s).rxb := by rw [← seqSend_rxb c, hsend]
      rw [hrun, rxbByte_xferRun_scripted] at hrx
      exact (Option.some.inj hrx).symm
    obtain ⟨ev', hwire, hev⟩ := ih (seqSend c (scripted f) out s)
    have hdraws : (seqSend c (scripted f) out s).draws = s.draws + 8 := by rw [hsend]
    have hfirst : (seqSend c (scripted f) out s).wire = s.wire ++ ev := by rw [hsend]
    refine ⟨ev ++ ev', ?_, ?_⟩
    · rw [← List.append_assoc, ← hfirst]
      exact hwire
    · have hall := hev.append hbyte
      have hgots : (List.range (outs.length + 1)).map (fun k => scriptedByte f (s.draws + 8 * k))
          = scriptedByte f s.draws :: (List.range outs.length).map fun k => scriptedByte f (s.draws + 8 + 8 * k) := by
        rw [List.range_succ_eq_map, List.map_cons, List.map_map]
        refine congrArg (_ :: ·) (List.map_congr_left fun k _ => congrArg (scriptedByte f) ?_)
        rw [Nat.succ_eq_add_one]
        omega
      rw [hdraws, hgot] at hall
      rw [List.length_cons, hgots]
      exact hall

/-- READ in a scripted environment assembles the second and third scripted bytes. -/
theorem readOp_scripted (hc : c.wf = true) (f : Nat → Bool) (s : State) : ∃ t, readOp c (scripted f) s = .next t
    ∧ t.raw = some (rawOf (scriptedByte f (s.draws + 8)) (scriptedByte f (s.draws + 16))) := by
  obtain ⟨g, h, l, ev, rx, hrx, hev, htable⟩ := readTable_wf hc (scripted f) s
  obtain ⟨ev', hwire', hev'⟩ := seqTable_scripted c f c.readRom (seqStart .read s)
  have hsame : ev' = ev := by
    rw [htable, seqStart_wire] at hwire'
    exact (List.append_cancel_left hwire').symm
  have hbytes := hev'.received
  rw [hsame, hev.received, readRom_wf hc] at hbytes
  obtain ⟨-, hh, hl⟩ : g = _ ∧ h = scriptedByte f (s.draws + 8) ∧ l = scriptedByte f (s.draws + 16) := by
    simpa [List.range_succ_eq_map] using hbytes
  exact ⟨_, (congrArg seqFinish htable).trans (seqFinish_read rfl rfl hrx), by rw [hh, hl]⟩

/-- A raw code is its two halves. -/
theorem rawOf_halves (v : Word16) : rawOf (v.extractLsb' 8 8) (v.extractLsb' 0 8) = v := by
  apply BitVec.eq_of_toNat_eq
  rw [rawOf_toNat, BitVec.extractLsb'_toNat, BitVec.extractLsb'_toNat, Nat.shiftRight_eq_div_pow]
  have hv := v.isLt
  omega

/-- The answers that spell a raw code in a READ's last two bytes, from a draw on. -/
def spellSample (v : Word16) (start : Nat) : Nat → Bool := fun n => v.getLsbD (23 - (n - start))

/-- Eight scripted answers are a byte when each is its bit. -/
theorem scriptedByte_eq {f : Nat → Bool} {n : Nat} {b : Byte} (h : ∀ k, k < 8 → f (n + k) = b.getLsbD (7 - k)) :
    scriptedByte f n = b := by
  refine Eq.trans ?_ (byteOfBits_getLsbD b)
  rw [← h 0 (by decide), ← h 1 (by decide), ← h 2 (by decide), ← h 3 (by decide), ← h 4 (by decide),
    ← h 5 (by decide), ← h 6 (by decide), ← h 7 (by decide)]
  rfl

/-- Settles O20: in the environment that spells the raw code. -/
theorem readReturnsAnySample : Obligations.ReadReturnsAnySample := by
  intro s v
  obtain ⟨t, ht, hraw⟩ := readOp_scripted build_wf (spellSample v s.draws) s
  have hhi : scriptedByte (spellSample v s.draws) (s.draws + 8) = v.extractLsb' 8 8 := scriptedByte_eq fun k hk => by
    rw [BitVec.getLsbD_extractLsb', decide_eq_true (by omega), Bool.true_and]
    exact congrArg v.getLsbD (by omega)
  have hlo : scriptedByte (spellSample v s.draws) (s.draws + 16) = v.extractLsb' 0 8 := scriptedByte_eq fun k hk => by
    rw [BitVec.getLsbD_extractLsb', decide_eq_true (by omega), Bool.true_and]
    exact congrArg v.getLsbD (by omega)
  exact ⟨_, t, ht, by rw [hraw, hhi, hlo, rawOf_halves]⟩

end Sys2Proof.Machine
end

section
/-! PROOFS. The machine stepped through a byte, and through a sequence, is the operation (spec/40_transceiver.md rule
R103, spec/41_sequencer.md rules R121, R124); INIT and READ are their expansions to XFER (spec/30_encoding.md rule R84). -/

namespace Sys2Proof.Machine

variable {s t : State}

/-- Steps in two runs, one after the other. -/
theorem steps_add (a b : Nat) (s : State) : steps (a + b) s = andThen (steps a s) (steps b) := by
  induction a generalizing s with
  | zero => rw [Nat.zero_add, steps_zero, andThen_next]
  | succ a ih =>
    rw [Nat.add_right_comm, steps_succ, steps_succ]
    cases step s with
    | next t => exact ih t
    | fault e => rfl
    | refused r => rfl

/-- One step after a run of steps that completes. -/
theorem steps_then {k : Nat} (h : steps k s = .next t) : steps (k + 1) s = step t := by
  rw [steps_add, h, andThen_next, steps_succ]
  cases step t <;> rfl

/-- One bit up to its sample: LOWER, DRIVE, RAISE, WAIT. -/
theorem steps_beforeSample {out : Byte} (hphase : s.phase = .lower) (htxb : s.txb = some out) :
    steps 1 s = .next (setPhase .drive (lowerSck s))
      ∧ steps 2 s = .next (setPhase .raise (driveSdo (out.getLsbD s.bitpos.toNat) (lowerSck s)))
      ∧ steps 3 s = .next (setPhase .wait (raiseSck (driveSdo (out.getLsbD s.bitpos.toNat) (lowerSck s))))
      ∧ steps 4 s
        = .next (setPhase .sample (waitHalf (raiseSck (driveSdo (out.getLsbD s.bitpos.toNat) (lowerSck s))))) := by
  obtain ⟨hlower, hdrive, hraise, hwait, -⟩ := microStepRows
  have h1 := Eq.trans (steps_then (steps_zero s)) (hlower s hphase)
  have h2 := Eq.trans (steps_then h1) (hdrive _ out rfl htxb)
  have h3 := Eq.trans (steps_then h2) (hraise _ rfl)
  have h4 := Eq.trans (steps_then h3) (hwait _ rfl)
  exact ⟨h1, h2, h3, h4⟩

/-- Fewer than five micro-steps from LOWER stay inside the byte. -/
theorem steps_inBit {out : Byte} (hphase : s.phase = .lower) (htxb : s.txb = some out) {k : Nat} (hk : k < 5) :
    ∃ t, steps k s = .next t ∧ t.phase ≠ .idle := by
  obtain ⟨h1, h2, h3, h4⟩ := steps_beforeSample hphase htxb
  interval_cases k
  · exact ⟨s, rfl, by simp [hphase]⟩
  · exact ⟨_, h1, by simp⟩
  · exact ⟨_, h2, by simp⟩
  · exact ⟨_, h3, by simp⟩
  · exact ⟨_, h4, by simp⟩

/-- Five micro-steps of a bit before the last are that bit of the loop, and go on at LOWER with the next. -/
theorem steps_bit {out : Byte} (hphase : s.phase = .lower) (htxb : s.txb = some out) (hpos : s.bitpos ≠ 0) :
    steps 5 s = .next (setPhase .lower (setBitpos (s.bitpos - 1) (xferBit peer out s.bitpos s))) := by
  obtain ⟨-, -, -, h4⟩ := steps_beforeSample hphase htxb
  obtain ⟨-, -, -, -, hsample, -⟩ := microStepRows
  exact Eq.trans (steps_then h4) (hsample _ rfl hpos)

/-- Five micro-steps of the last bit are that bit of the loop and the end of the byte. -/
theorem steps_lastBit {out : Byte} (hphase : s.phase = .lower) (htxb : s.txb = some out) (hpos : s.bitpos = 0) :
    steps 5 s = byteDone build (setPhase .idle (xferBit peer out 0 s)) := by
  obtain ⟨-, -, -, h4⟩ := steps_beforeSample hphase htxb
  have hlast : steps 5 s = byteDone build (setPhase .idle (xferBit peer out s.bitpos s)) :=
    Eq.trans (steps_then h4) (Eq.trans (step_micro (by simp)) (microStep_last rfl hpos))
  rw [hlast, hpos]

/-- The bit positions from `n` down to 0. -/
def positionsFrom (n : Nat) : List (BitVec 3) := (List.range (n + 1)).reverse.map (BitVec.ofNat 3)

theorem positionsFrom_succ (n : Nat) : positionsFrom (n + 1) = BitVec.ofNat 3 (n + 1) :: positionsFrom n := by
  delta positionsFrom
  rw [List.range_succ, List.reverse_append, List.reverse_singleton, List.singleton_append, List.map_cons]

/-- The loop of rule R100 over some positions. -/
def xferBits (p : Peer) (out : Byte) (is : List (BitVec 3)) (s : State) : State :=
  is.foldl (fun t i => xferBit p out i t) s

/-- The loop does not look at PHASE. -/
theorem xferBits_setPhase (p : Peer) (out : Byte) (is : List (BitVec 3)) (ph : Phase) (s : State) :
    xferBits p out is (setPhase ph s) = setPhase ph (xferBits p out is s) :=
  List.foldl_hom (setPhase ph) fun _ _ => rfl

/-- Nor does it look at BITPOS, which its first bit sets. -/
theorem xferBits_setBitpos (p : Peer) (out : Byte) (n : Nat) (i : BitVec 3) (s : State) :
    xferBits p out (positionsFrom n) (setBitpos i s) = xferBits p out (positionsFrom n) s := by
  cases n with
  | zero => rfl
  | succ n =>
    rw [positionsFrom_succ]
    rfl

/-- A bit position above 0 is not 0, and one less is the position below. -/
theorem bitpos_succ : ∀ n < 7, BitVec.ofNat 3 (n + 1) ≠ 0 ∧ BitVec.ofNat 3 (n + 1) - 1 = BitVec.ofNat 3 n := by
  decide

/-- The micro-steps from LOWER at a bit position are the rest of the loop and the end of the byte, by induction on the
position. -/
theorem steps_bits {out : Byte} (n : Nat) (hn : n < 8) (hphase : s.phase = .lower) (htxb : s.txb = some out)
    (hpos : s.bitpos = BitVec.ofNat 3 n) :
    steps (5 * (n + 1)) s = byteDone build (setPhase .idle (xferBits peer out (positionsFrom n) s))
      ∧ ∀ k, k < 5 * (n + 1) → ∃ t, steps k s = .next t ∧ t.phase ≠ .idle := by
  induction n generalizing s with
  | zero => exact ⟨steps_lastBit hphase htxb hpos, fun k hk => steps_inBit hphase htxb hk⟩
  | succ n ih =>
    obtain ⟨hne, hprev⟩ := bitpos_succ n (by omega)
    have hbit := steps_bit hphase htxb (hpos ▸ hne)
    rw [hpos, hprev] at hbit
    have hnext := @ih (setPhase .lower (setBitpos (BitVec.ofNat 3 n) (xferBit peer out (BitVec.ofNat 3 (n + 1)) s)))
      (by omega) rfl (by simp [xferBit_eq, htxb]) rfl
    obtain ⟨hrest, hinside⟩ := hnext
    refine ⟨?_, fun k hk => ?_⟩
    · rw [show 5 * (n + 1 + 1) = 5 + 5 * (n + 1) by omega, steps_add, hbit, andThen_next, hrest, xferBits_setPhase,
        xferBits_setBitpos, positionsFrom_succ]
      rfl
    · by_cases h5 : k < 5
      · exact steps_inBit hphase htxb h5
      · obtain ⟨k', rfl⟩ : ∃ k', k = 5 + k' := ⟨k - 5, by omega⟩
        rw [steps_add, hbit, andThen_next]
        exact hinside k' (by omega)

/-- Forty micro-steps from the call are the run of the byte and its end, and none before the last leaves the byte. -/
theorem steps_byte (out : Byte) (s : State) :
    steps 40 (sstCall out s) = byteDone build (xferRun peer out s)
      ∧ ∀ k, k < 40 → ∃ t, steps k (sstCall out s) = .next t ∧ t.phase ≠ .idle := by
  obtain ⟨hall, hinside⟩ := steps_bits (s := sstCall out s) (out := out) 7 (by decide) rfl rfl rfl
  refine ⟨hall.trans (congrArg (byteDone build) ?_), hinside⟩
  rw [sstCall, xferBits_setPhase, xferBits_setBitpos]
  rfl

/-- A byte leaves SEQ's registers. -/
theorem xferRun_sq (p : Peer) (out : Byte) (s : State) : (xferRun p out s).sq = s.sq := by
  obtain ⟨got, ev, rx, -, -, hrun⟩ := xferRun_byte p out s
  rw [hrun]

/-- Settles O13: with no sequence running the end of the byte returns RXB. -/
theorem microStepsAreXfer : Obligations.MicroStepsAreXfer := by
  intro s out hsq
  obtain ⟨hall, hinside⟩ := steps_byte out s
  exact ⟨hall.trans (byteDone_direct ((xferRun_sq peer out s).trans hsq)), hinside⟩

/-- Settles O54: in a running sequence the end of the byte steps the sequence on. -/
theorem microStepsInSequence : Obligations.MicroStepsInSequence := by
  intro s out hsq
  obtain ⟨hall, hinside⟩ := steps_byte out s
  exact ⟨hall.trans (byteDone_sequence fun h => hsq ((xferRun_sq peer out s).symm.trans h)), hinside⟩

/-- A running sequence stepped byte by byte sends the rest of its table, by induction on that rest. -/
theorem steps_table (sent rest : List Byte) (hphase : s.phase = .idle) (hsq : s.sq ≠ .none)
    (hrom : romOf build s.sq = sent ++ rest) (hidx : s.idx.toNat = sent.length) :
    ∃ t, steps rest.length s = .next t ∧ t = seqTable build peer rest s ∧ t.phase = .idle ∧ t.sq = s.sq
      ∧ t.idx.toNat = (romOf build s.sq).length := by
  induction rest generalizing s sent with
  | nil => exact ⟨s, rfl, rfl, hphase, rfl, by rw [hrom, hidx, List.append_nil]⟩
  | cons b rest ih =>
    have hlen := romOf_length_le build_wf s.sq
    have hlt : s.idx.toNat < (romOf build s.sq).length := by simp [hrom, hidx]
    have hb : (romOf build s.sq)[s.idx.toNat]? = some b := by simp [hrom, hidx]
    have hstep : step s = .next (seqSend build peer b s) :=
      (step_eq_stepWith s).trans (stepWith_byte build_wf hphase hsq hb)
    obtain ⟨got, ev, rx, -, -, hsend⟩ := seqSend_spec build peer b s
    obtain ⟨u, hu⟩ : ∃ u, u = seqSend build peer b s := ⟨_, rfl⟩
    have huphase : u.phase = .idle := by rw [hu, hsend]
    have husq : u.sq = s.sq := by rw [hu, hsend]
    have huidx : u.idx.toNat = s.idx.toNat + 1 := by
      rw [hu, hsend]
      simp only [if_pos hlt, BitVec.toNat_add]
      exact Nat.mod_eq_of_lt (by simp; omega)
    obtain ⟨t, ht, htable, htphase, htsq, htidx⟩ := ih (s := u) (sent ++ [b]) huphase (by rw [husq]; exact hsq)
      (by rw [husq, hrom, List.append_assoc, List.singleton_append]) (by rw [huidx, hidx, List.length_append]; rfl)
    refine ⟨t, ?_, ?_, htphase, htsq.trans husq, husq ▸ htidx⟩
    · rw [List.length_cons, steps_succ, hstep, andThen_next, ← hu]
      exact ht
    · rw [htable, hu]
      rfl

/-- A sequence stepped from its start, one wire instruction a step and then its end. -/
theorem steps_sequence (q : SeqId) (hq : q ≠ .none) (hphase : s.phase = .idle) :
    steps ((romOf build q).length + 1) (seqStart q s)
      = seqFinish (seqTable build peer (romOf build q) (seqStart q s)) := by
  obtain ⟨t, ht, htable, htphase, htsq, htidx⟩ := steps_table (s := seqStart q s) [] (romOf build q) hphase hq rfl rfl
  rw [steps_then ht, ← htable]
  exact stepOver_end htphase (by rw [htsq]; exact hq) (by rw [htsq, htidx]; simp)

/-- Settles O22. -/
theorem sequenceByteByByte : Obligations.SequenceByteByByte := by
  refine ⟨fun s h => ?_, fun s h => steps_sequence .read nofun h⟩
  obtain ⟨gots, last, ev, rx, -, -, -, htable⟩ := initTable_wf build_wf peer s
  refine Eq.trans (steps_sequence .init nofun h) (seqFinish_init ?_)
  exact congrArg State.sq htable

/-- SEQ's registers and the results handed over, replaced. -/
def withSeq (q : SeqId) (i : BitVec 4) (h : Option Byte) (ret : List Returned) (s : State) : State :=
  { s with sq := q, idx := i, rxh := h, returned := ret }

/-- Two states agree but for SEQ's registers and the results handed over. -/
def SameButSeq (s t : State) : Prop := ∃ q i h ret, s = withSeq q i h ret t

/-- The byte exchange does not look at SEQ's registers. -/
theorem xferRun_withSeq (p : Peer) (out : Byte) (q : SeqId) (i : BitVec 4) (h : Option Byte) (ret : List Returned)
    (s : State) : xferRun p out (withSeq q i h ret s) = withSeq q i h ret (xferRun p out s) :=
  congrArg (setPhase .idle)
    (List.foldl_hom (l := bitPositions) (init := setTxb out s) (withSeq q i h ret) fun _ _ => rfl)

/-- A sequence stepping on changes SEQ's registers. -/
theorem seqAdvance_sameButSeq (c : Cfg) (s : State) : SameButSeq (seqAdvance c s) s := by
  by_cases h : s.idx.toNat < (romOf c s.sq).length
  · rw [seqAdvance_of_lt h]
    exact ⟨_, _, _, s.returned, rfl⟩
  · rw [seqAdvance_of_not_lt h]
    exact ⟨_, _, _, s.returned, rfl⟩

/-- One byte of a sequence and one XFER, from states that agree. -/
theorem seqSend_sameButSeq (c : Cfg) (p : Peer) (out : Byte) (got : Returned) (h : SameButSeq s t) :
    SameButSeq (seqSend c p out s) (returnToHost got (xferRun p out t)) := by
  obtain ⟨q, i, hi, ret, rfl⟩ := h
  obtain ⟨q', i', hi', ret', hadv⟩ := seqAdvance_sameButSeq c (withSeq q i hi ret (xferRun p out t))
  refine ⟨q', i', hi', ret', ?_⟩
  rw [seqSend_eq, xferRun_withSeq, hadv]
  rfl

/-- A table and the XFERs of its bytes, from states that agree: the XFERs complete, return the bytes received, and leave
a state that agrees. -/
theorem execAll_xfers (outs : List Byte) (h : SameButSeq s t) : ∃ u gots ev, execAll (outs.map Instr.xfer) t = .next u
    ∧ SameButSeq (seqTable build peer outs s) u ∧ Transfers outs gots ev ∧ u.wire = t.wire ++ ev
    ∧ u.returned = t.returned ++ gots.map Returned.byte := by
  induction outs generalizing s t with
  | nil => exact ⟨t, [], [], rfl, h, Transfers.nil, by simp, by simp⟩
  | cons out outs ih =>
    obtain ⟨got, ev, hbyte, hwire, hret, hxfer⟩ := xferOp_eq peer out t
    obtain ⟨u, gots, ev', hall, hsame, hev, hwire', hret'⟩ := ih (seqSend_sameButSeq build peer out (.byte got) h)
    refine ⟨u, got :: gots, ev ++ ev', ?_, hsame, hev.append hbyte, ?_, ?_⟩
    · rw [List.map_cons, execAll_cons, exec_xfer, hxfer, andThen_next, hall]
    · rw [hwire', returnToHost_wire, hwire, List.append_assoc]
    · rw [hret', returnToHost_returned, hret, List.map_cons, List.append_assoc, List.singleton_append]

/-- Starting a sequence changes SEQ's registers. -/
theorem seqStart_sameButSeq (q : SeqId) (s : State) : SameButSeq (seqStart q s) s := ⟨q, 0, s.rxh, s.returned, rfl⟩

/-- Settles O17: the table of INIT and the eight XFERs agree but for SEQ's registers, which INIT then resets. -/
theorem initIsEightTransfers : Obligations.InitIsEightTransfers := by
  intro s
  obtain ⟨u, gots, ev, hall, ⟨q, i, h, ret, hsame⟩, -⟩ := execAll_xfers build.initRom (seqStart_sameButSeq .init s)
  refine ⟨_, u, exec_eq_execWith .init s, hall, ?_⟩
  rw [hsame]
  exact ⟨rfl, rfl, rfl, rfl, rfl⟩

/-- Settles O21: the table of READ and the three XFERs agree but for SEQ's registers, so their traces hold the same
bytes received, of which READ assembles RAW. -/
theorem readIsThreeTransfers : Obligations.ReadIsThreeTransfers := by
  intro s
  obtain ⟨u, gots, ev, hall, ⟨q, i, rxh, ret, hsame⟩, hev, hwire, hret⟩ :=
    execAll_xfers build.readRom (seqStart_sameButSeq .read s)
  obtain ⟨g, h, l, ev', rx, hrx, hev', htable⟩ := readTable_wf build_wf peer s
  have hgots : gots = [g, h, l] := by
    have hwires := (congrArg State.wire htable).symm.trans (congrArg State.wire hsame)
    rw [← hev.received, ← hev'.received]
    exact congrArg bytesReceived (List.append_cancel_left (hwire.symm.trans hwires.symm))
  have hread := seqFinish_read (s := seqTable build peer build.readRom (seqStart .read s)) (by rw [htable])
    (by rw [htable]) (by rw [htable]; exact hrx)
  refine ⟨_, u, g, h, l, Eq.trans (exec_read s) hread, hall, by rw [hret, hgots]; rfl, ?_⟩
  rw [hsame]
  exact ⟨rfl, rfl, rfl, rfl, rfl⟩

end Sys2Proof.Machine
end
